-- ==== Sys2Proof/Word.lean ====
section
/-! DEFINITION. The words of the machine: bytes, 32-bit register words, and the bit patterns of IEEE 754 binary32 and binary64 values (R7, R8). -/

namespace Sys2Proof

/-- One byte of the host window (R60). -/
abbrev Byte := BitVec 8

/-- One 32-bit word of the host window (R65). -/
abbrev Word := BitVec 32

/-- The bit pattern of an IEEE 754 binary32 value, the spec's `f32` (R8). -/
abbrev F32 := BitVec 32

/-- The bit pattern of an IEEE 754 binary64 value, the spec's `f64` (R8). -/
abbrev F64 := BitVec 64

end Sys2Proof
end

