-- ==== Sys2Proof/Config.lean ====
section
/-! DEFINITION. What an implementation of the core fixes (the parameters of R6 and R21), and the free values: opaque constants of which nothing can be computed. -/

namespace Sys2Proof

/-- FB_ORDER: the placement of the feedback scale around tanh (R6, R135). -/
inductive FbOrder where
  | scaleAfter
  | scaleInside
  deriving DecidableEq, Repr

/-- MIX_INIT: the smoothed mix that PREPARE and RESET install (R6, R211). -/
inductive MixInit where
  | zero
  | snap
  deriving DecidableEq, Repr

/-- Where a mix ratio that decays to target 0 with FTZ true stops, on which the spec speaks twice and rules nowhere: `held` at the last value before the flushed product (R9 with R213), `zero` at +0.0 (R214 corner case (e)). The model's own parameter (notes/assumptions/24.md). -/
inductive MixStop where
  | held
  | zero
  deriving DecidableEq, Repr

/-- NUM: which transcendental functions the core has (R6, R13). `reference` is the spec's reference (correctly rounded functions, evaluated by Machine/Numerics.lean); `supplied` is any other choice, the opaque functions of this file. -/
inductive Numerics where
  | reference
  | supplied
  deriving DecidableEq, Repr

/-- The open parameters of R6 that are plain data, and the model's own `mixStop`. No command changes them (R21). -/
structure Cfg where
  /-- BASE: byte address of the register window on the host bus. -/
  base : Nat
  /-- BUF_WORDS: words in each sample buffer. -/
  bufWords : Nat
  /-- DELAY_RAM_WORDS: delay RAM elements of each stage instance. -/
  delayRamWords : Nat
  /-- NUM: the transcendental functions. -/
  num : Numerics
  /-- FTZ: flush subnormal binary32 results to zero (R9). -/
  ftz : Bool
  /-- FB_ORDER (R135). -/
  fbOrder : FbOrder
  /-- QUANT_LEVELS, a real value held as a binary64 pattern (R174). -/
  quantLevels : F64
  /-- MIX_INIT (R211). -/
  mixInit : MixInit
  /-- Which of two texts of the spec a ratio decaying to 0 with FTZ true follows (notes/assumptions/24.md). -/
  mixStop : MixStop
  deriving DecidableEq, Repr

/-- The reference values of R6. BASE has none in the spec: 0 is a DESIGN CHOICE (notes/assumptions/8.md), unsafe only for a claim that names a bus address without naming BASE. `mixStop`, the model's own, has no effect while FTZ is false, as it is here. -/
def Cfg.referenceValues : Cfg where
  base := 0
  bufWords := 4096
  delayRamWords := 57604
  num := .reference
  ftz := false
  fbOrder := .scaleAfter
  quantLevels := 0x40B0000000000000#64
  mixInit := .zero
  mixStop := .held

/-- The operation a NaN result comes from (R9, R13), so that its free bit pattern may differ by operation. -/
inductive NanSource where
  | add | sub | mul | div | narrow | widen | tanh | sin | cos | log10 | pow10 | exp
  deriving DecidableEq, Repr

/-! Free values: no body, so no proof can see what they are. -/

/-- The bit pattern of a binary32 NaN result, free among the NaNs (I8, notes/assumptions/11.md). -/
opaque Config.nanBits32 : NanSource → BitVec 64 → BitVec 64 → F32

/-- The bit pattern of a binary64 NaN result, free among the NaNs (I8, notes/assumptions/11.md). -/
opaque Config.nanBits64 : NanSource → F64 → F64 → F64

/-- `tanh_f32` of a supplied NUM on non-negative values. Machine/Numerics.lean extends it to every value so that R13's properties, and only they, hold (notes/assumptions/10.md). -/
opaque Config.tanhF32 : F32 → F32

/-- `sin_f32` of a supplied NUM (R13). -/
opaque Config.sinF32 : F32 → F32

/-- `cos_f32` of a supplied NUM (R13). -/
opaque Config.cosF32 : F32 → F32

/-- `log10_f32` of a supplied NUM (R13). -/
opaque Config.log10F32 : F32 → F32

/-- `pow10_f32` of a supplied NUM (R13). -/
opaque Config.pow10F32 : F32 → F32

/-- `exp_f64` of a supplied NUM (R13). -/
opaque Config.expF64 : F64 → F64

/-- `sin_f64` of a supplied NUM (R13). -/
opaque Config.sinF64 : F64 → F64

/-- `cos_f64` of a supplied NUM (R13). -/
opaque Config.cosF64 : F64 → F64

/-- NOISE_SOURCE beyond the draws that State lists: draw number `k` of the sequence of `inst(ch, st)`, before it is brought into [-1, 1] (R117, notes/assumptions/13.md). -/
opaque Config.noiseDraw : (ch st k : Nat) → F32

/-- `int_to_f32(n)` for |n| of 2^24 or more, which R9 does not state (notes/assumptions/9.md). -/
opaque Config.intToF32Beyond : Int → F32

/-- The read position left when the wrap loop of R131 has run for more rounds than the ring has elements, given the loop's increment and the position (notes/assumptions/14.md). -/
opaque Config.endlessWrap : (cap r : F32) → F32

/-- The CAPACITY register when CAP does not fit its 32 bits (notes/assumptions/23.md). -/
opaque Config.capacityBeyond : Nat → Word

/-- The integer the delay line takes for a read position that is no finite number, which the spec does not state and no run reaches (R131, notes/assumptions/15.md). -/
opaque Config.indexOfNonFinite : F32 → Int

end Sys2Proof
end

