-- ==== Sys2Proof/Syntax.lean ====
section
/-! DEFINITION. The commands of the core (R93), one constructor per row of spec/opcode_table.json, and the events the outside world presents to the core (R65, R70, R283). -/

namespace Sys2Proof

/-- The channel of a stage instance: CH = 0 is left, CH = 1 is right (R91). -/
inductive Channel where
  | left
  | right
  deriving DecidableEq, Repr

/-- The stage of a stage instance: ST = 0 is stage 1, ST = 1 is stage 2 (R91). -/
inductive Stage where
  | one
  | two
  deriving DecidableEq, Repr

/-- The eleven commands (R93). An engine command carries no fields, an instance command the `(CH, ST)` of the stage instance it acts on (R92). -/
inductive Instr where
  /-- PREPARE, OPC 0x01 (R250). -/
  | prepare
  /-- RESET, OPC 0x02 (R256). -/
  | reset
  /-- PROCESS_BLOCK, OPC 0x03 (R240). -/
  | processBlock
  /-- STAGE_SAMPLE, OPC 0x04 (R233). -/
  | stageSample (ch : Channel) (st : Stage)
  /-- COMPRESS, OPC 0x10 (R154). -/
  | compress (ch : Channel) (st : Stage)
  /-- DELAY_SAMPLE, OPC 0x11 (R137). -/
  | delaySample (ch : Channel) (st : Stage)
  /-- BBD_SAMPLE, OPC 0x12 (R176). -/
  | bbdSample (ch : Channel) (st : Stage)
  /-- EXPAND, OPC 0x13 (R155). -/
  | expand (ch : Channel) (st : Stage)
  /-- FILTER_SAMPLE, OPC 0x14 (R196). -/
  | filterSample (ch : Channel) (st : Stage)
  /-- MIX_SAMPLE, OPC 0x15 (R214). -/
  | mixSample (ch : Channel) (st : Stage)
  /-- SOFTCLIP, OPC 0x16 (R230). -/
  | softclip
  deriving DecidableEq, Repr

/-- What the outside world does to the core: one bus access by either host agent (R65, R70), or a loss of power followed by the next power-on (R283). Addresses are byte addresses on the host bus, not offsets. -/
inductive HostEvent where
  /-- A read of `bytes` bytes at bus address `addr`. -/
  | read (addr bytes : Nat)
  /-- A write of `bytes` bytes of `value` at bus address `addr`. -/
  | write (addr bytes : Nat) (value : Word)
  /-- Power is lost and comes back. -/
  | powerCycle
  deriving DecidableEq, Repr

end Sys2Proof
end

