-- ==== Sys2Proof/WellFormed.lean ====
section
/-! DEFINITION. Well-formedness: of instructions, of host accesses (R65) and of configurations (R6, I13). -/

namespace Sys2Proof

/-- A command is well-formed when its fields fit the command word. CH and ST are enumerations of two values each and an engine command has no fields, so every term of `Instr` is well-formed: the type itself is the check. -/
def Instr.wellFormed (_ : Instr) : Bool := true

/-- The only access the host window admits: 32 bits wide, at an offset that is a multiple of 4 (R65). -/
def accessAdmitted (bytes off : Nat) : Bool := bytes == 4 && off % 4 == 0

/-- BUF_WORDS is 1 to 16384 (R6; I13: a configuration with any other value is refused). No other parameter of R6 has a bound. -/
def Cfg.legal (c : Cfg) : Bool :=
  decide (1 ≤ c.bufWords) && decide (c.bufWords ≤ 16384)

end Sys2Proof
end

