-- ==== Sys2Proof/Decode.lean ====
section
/-! DEFINITION. The command word (R90 to R96): decoding, total on all 2^32 words, and the encoder, both from the opcode map of R93. -/

namespace Sys2Proof

/-- Why a word written to CMD is no command (R95, checks 1 to 3). -/
inductive DecodeError where
  /-- `w[7:0]` is not in the opcode map: ILLEGAL_OPCODE. -/
  | illegalOpcode
  /-- a reserved bit, or CH or ST of an engine command, is set: RESERVED_BITS. -/
  | reservedBits
  deriving DecidableEq, Repr

/-- OPC, bits 7:0 (R91). -/
def fieldOpc (w : Word) : BitVec 8 := w.extractLsb' 0 8

/-- CH and ST together, bits 9:8 (R91). -/
def fieldStCh (w : Word) : BitVec 2 := w.extractLsb' 8 2

/-- RSV, bits 31:10 (R91). -/
def fieldRsv (w : Word) : BitVec 22 := w.extractLsb' 10 22

/-- CH, bit 8: 0 is left, 1 is right (R91). -/
def fieldCh (w : Word) : Channel := if w.getLsbD 8 then .right else .left

/-- ST, bit 9: 0 is stage 1, 1 is stage 2 (R91). -/
def fieldSt (w : Word) : Stage := if w.getLsbD 9 then .two else .one

/-- The opcode map (R93), with the fields an instance command takes. -/
def instrOfOpc (opc : BitVec 8) (ch : Channel) (st : Stage) : Option Instr :=
  if opc = 0x01#8 then some .prepare
  else if opc = 0x02#8 then some .reset
  else if opc = 0x03#8 then some .processBlock
  else if opc = 0x04#8 then some (.stageSample ch st)
  else if opc = 0x10#8 then some (.compress ch st)
  else if opc = 0x11#8 then some (.delaySample ch st)
  else if opc = 0x12#8 then some (.bbdSample ch st)
  else if opc = 0x13#8 then some (.expand ch st)
  else if opc = 0x14#8 then some (.filterSample ch st)
  else if opc = 0x15#8 then some (.mixSample ch st)
  else if opc = 0x16#8 then some .softclip
  else none

/-- The engine commands, which require CH = 0 and ST = 0 (R92). -/
def Instr.isEngine : Instr → Bool
  | .prepare => true
  | .reset => true
  | .processBlock => true
  | .stageSample _ _ => false
  | .compress _ _ => false
  | .delaySample _ _ => false
  | .bbdSample _ _ => false
  | .expand _ _ => false
  | .filterSample _ _ => false
  | .mixSample _ _ => false
  | .softclip => true

/-- Decoding of a word written to CMD, the checks in the order of R95. -/
def decode (w : Word) : Except DecodeError Instr :=
  match instrOfOpc (fieldOpc w) (fieldCh w) (fieldSt w) with
  | none => .error .illegalOpcode
  | some i =>
    if fieldRsv w ≠ 0#22 then .error .reservedBits
    else if i.isEngine && fieldStCh w != 0#2 then .error .reservedBits
    else .ok i

/-- CH as a bit of the command word (R91). -/
def chBit : Channel → BitVec 1
  | .left => 0#1
  | .right => 1#1

/-- ST as a bit of the command word (R91). -/
def stBit : Stage → BitVec 1
  | .one => 0#1
  | .two => 1#1

/-- `(ST << 9) | (CH << 8) | OPC` with RSV zero (R91). -/
def commandWord (opc : BitVec 8) (ch st : BitVec 1) : Word := 0#22 ++ st ++ ch ++ opc

/-- The command word of an instruction (R93, R94). -/
def encode : Instr → Word
  | .prepare => commandWord 0x01#8 0#1 0#1
  | .reset => commandWord 0x02#8 0#1 0#1
  | .processBlock => commandWord 0x03#8 0#1 0#1
  | .stageSample ch st => commandWord 0x04#8 (chBit ch) (stBit st)
  | .compress ch st => commandWord 0x10#8 (chBit ch) (stBit st)
  | .delaySample ch st => commandWord 0x11#8 (chBit ch) (stBit st)
  | .bbdSample ch st => commandWord 0x12#8 (chBit ch) (stBit st)
  | .expand ch st => commandWord 0x13#8 (chBit ch) (stBit st)
  | .filterSample ch st => commandWord 0x14#8 (chBit ch) (stBit st)
  | .mixSample ch st => commandWord 0x15#8 (chBit ch) (stBit st)
  | .softclip => commandWord 0x16#8 0#1 0#1

/-- The 32-bit word of which the opcode table gives the low `nbits` bits, every other bit 0. -/
def tableWord (nbits w : Nat) : Word := BitVec.ofNat 32 (w % 2 ^ nbits)

/-- The instruction this decoder reads from an opcode-table word; a command is one 32-bit word written in one access (R90, R65), so its bits are the table's bits. -/
def decodeTableWord (nbits w : Nat) : Option Instr :=
  match decode (tableWord nbits w) with
  | .ok i => some i
  | .error _ => none

end Sys2Proof
end

