-- ==== Sys2Proof/Machine/Float.lean ====
section
/-! DEFINITION. IEEE 754 binary32 and binary64 arithmetic with round-to-nearest-ties-to-even (R8 to R11), one rounding per operator, evaluated exactly on natural numbers before the rounding. -/

namespace Sys2Proof.Machine

/-! ## Formats -/

/-- A binary interchange format. `hidden` is 2^(precision - 1), `infMag` the magnitude bits of infinity, `unit` the exponent of the smallest subnormal, which is 2^(-unit). -/
structure FloatFormat where
  hidden : Nat
  infMag : Nat
  unit : Nat
  deriving DecidableEq, Repr

/-- binary32. -/
def binary32 : FloatFormat := ⟨8388608, 0x7F800000, 149⟩

/-- binary64. -/
def binary64 : FloatFormat := ⟨4503599627370496, 0x7FF0000000000000, 1074⟩

/-- A value as its sign and its magnitude bits (exponent and fraction read as one number). -/
structure SignMag where
  neg : Bool
  mag : Nat
  deriving DecidableEq, Repr

/-- The finite magnitude `mag` as a multiple of the smallest subnormal: every finite value is one. -/
def FloatFormat.units (f : FloatFormat) (mag : Nat) : Nat :=
  if mag < f.hidden then mag
  else (f.hidden + mag % f.hidden) * 2 ^ (mag / f.hidden - 1)

/-- `n / d` rounded to the nearest integer, ties to even. -/
def divNearestEven (n d : Nat) : Nat :=
  let q := n / d
  let r := n % d
  if 2 * r < d then q else if d < 2 * r then q + 1 else q + q % 2

/-- The magnitude bits of the value nearest to `n / d` smallest subnormals, ties to even; from the overflow threshold on, infinity (R9). With the last place of the result at `2 ^ u` smallest subnormals, the exponent and fraction fields together are `u * hidden` plus the rounded significand, for subnormal and normal results alike. -/
def FloatFormat.roundUnits (f : FloatFormat) (n d : Nat) : Nat :=
  let q := n / d
  let u := Nat.log2 q - Nat.log2 f.hidden
  let bits := u * f.hidden + divNearestEven n (d * 2 ^ u)
  if bits < f.infMag then bits else f.infMag

/-- Addition (R9): `none` is a NaN. An exact zero sum is +0 unless both operands are negative. -/
def FloatFormat.addSM (f : FloatFormat) (x y : SignMag) : Option SignMag :=
  if f.infMag < x.mag || f.infMag < y.mag then none
  else if x.mag = f.infMag then
    (if y.mag = f.infMag && x.neg != y.neg then none else some x)
  else if y.mag = f.infMag then some y
  else
    let a := f.units x.mag
    let b := f.units y.mag
    if x.neg = y.neg then some ⟨x.neg, f.roundUnits (a + b) 1⟩
    else if a = b then some ⟨false, 0⟩
    else if b < a then some ⟨x.neg, f.roundUnits (a - b) 1⟩
    else some ⟨y.neg, f.roundUnits (b - a) 1⟩

/-- Multiplication (R9): `none` is a NaN. -/
def FloatFormat.mulSM (f : FloatFormat) (x y : SignMag) : Option SignMag :=
  if f.infMag < x.mag || f.infMag < y.mag then none
  else if x.mag = f.infMag then (if y.mag = 0 then none else some ⟨x.neg != y.neg, f.infMag⟩)
  else if y.mag = f.infMag then (if x.mag = 0 then none else some ⟨x.neg != y.neg, f.infMag⟩)
  else some ⟨x.neg != y.neg, f.roundUnits (f.units x.mag * f.units y.mag) (2 ^ f.unit)⟩

/-- Division (R9): `none` is a NaN; a finite non-zero value over zero is infinite. -/
def FloatFormat.divSM (f : FloatFormat) (x y : SignMag) : Option SignMag :=
  if f.infMag < x.mag || f.infMag < y.mag then none
  else if x.mag = f.infMag then (if y.mag = f.infMag then none else some ⟨x.neg != y.neg, f.infMag⟩)
  else if y.mag = f.infMag then some ⟨x.neg != y.neg, 0⟩
  else if y.mag = 0 then (if x.mag = 0 then none else some ⟨x.neg != y.neg, f.infMag⟩)
  else some ⟨x.neg != y.neg, f.roundUnits (f.units x.mag * 2 ^ f.unit) (f.units y.mag)⟩

/-! ## binary32 -/

/-- Sign and magnitude of a binary32 pattern. -/
def unpack32 (x : F32) : SignMag := ⟨x.msb, x.toNat % 2147483648⟩

/-- The binary32 pattern of a sign and a magnitude. -/
def pack32 (v : SignMag) : F32 := BitVec.ofNat 32 (if v.neg then 2147483648 + v.mag else v.mag)

/-- Exponent all ones and a non-zero fraction, either sign (R111). -/
def isNaN32 (x : F32) : Bool := decide (0x7F800000 < x.toNat % 2147483648)

/-- Plus or minus infinity. -/
def isInf32 (x : F32) : Bool := decide (x.toNat % 2147483648 = 0x7F800000)

/-- Neither a NaN nor an infinity. -/
def isFinite32 (x : F32) : Bool := decide (x.toNat % 2147483648 < 0x7F800000)

/-- Plus or minus zero. -/
def isZero32 (x : F32) : Bool := decide (x.toNat % 2147483648 = 0)

/-- A binary32 pattern below the smallest normal value and not a zero. -/
def isSubnormal32 (x : F32) : Bool :=
  decide (0 < x.toNat % 2147483648) && decide (x.toNat % 2147483648 < 8388608)

/-- A NaN result: some NaN, its bit pattern free (I8). -/
def nan32 (src : NanSource) (a b : BitVec 64) : F32 :=
  if isNaN32 (Config.nanBits32 src a b) then Config.nanBits32 src a b else 0x7FC00000#32

/-- FTZ: a subnormal binary32 result becomes a zero of the same sign (R9). -/
def flushMag (c : Cfg) (mag : Nat) : Nat := if mag < 8388608 && c.ftz then 0 else mag

/-- A binary32 result with FTZ applied (R9). -/
def result32 (c : Cfg) (src : NanSource) (a b : BitVec 64) : Option SignMag → F32
  | none => nan32 src a b
  | some v => pack32 ⟨v.neg, flushMag c v.mag⟩

/-- FTZ applied to a binary32 result that is given as a value: a subnormal becomes a zero of the same sign, every other value is kept (R9, notes/assumptions/12.md). -/
def flush32 (c : Cfg) (x : F32) : F32 :=
  if isNaN32 x then x else pack32 ⟨x.msb, flushMag c (x.toNat % 2147483648)⟩

/-- `a + b` on `f32` (R9). -/
def fadd (c : Cfg) (a b : F32) : F32 :=
  result32 c .add (a.setWidth 64) (b.setWidth 64) (binary32.addSM (unpack32 a) (unpack32 b))

/-- The sign bit flipped. -/
def flipSign (a : F32) : F32 := a ^^^ 0x80000000#32

/-- The sign bit cleared. -/
def clearSign (a : F32) : F32 := a &&& 0x7FFFFFFF#32

/-- Unary minus: flips the sign bit; FTZ acts on its result as on every other (R9, notes/assumptions/12.md). -/
def fneg (c : Cfg) (a : F32) : F32 := flush32 c (flipSign a)

/-- `abs(x)`: clears the sign bit; FTZ acts on its result as on every other (R9, notes/assumptions/12.md). -/
def fabs (c : Cfg) (a : F32) : F32 := flush32 c (clearSign a)

/-- `a - b` on `f32` (R9). -/
def fsub (c : Cfg) (a b : F32) : F32 :=
  result32 c .sub (a.setWidth 64) (b.setWidth 64) (binary32.addSM (unpack32 a) (unpack32 (flipSign b)))

/-- `a * b` on `f32` (R9). -/
def fmul (c : Cfg) (a b : F32) : F32 :=
  result32 c .mul (a.setWidth 64) (b.setWidth 64) (binary32.mulSM (unpack32 a) (unpack32 b))

/-- `a / b` on `f32` (R9). -/
def fdiv (c : Cfg) (a b : F32) : F32 :=
  result32 c .div (a.setWidth 64) (b.setWidth 64) (binary32.divSM (unpack32 a) (unpack32 b))

/-- The order of the non-NaN values: -0 and +0 are equal. -/
def orderKey32 (x : F32) : Int :=
  if x.msb then -((x.toNat % 2147483648 : Nat) : Int) else ((x.toNat % 2147483648 : Nat) : Int)

/-- `a < b`, false when either is a NaN (R11). -/
def flt (a b : F32) : Bool := !isNaN32 a && !isNaN32 b && decide (orderKey32 a < orderKey32 b)

/-- `a <= b`, false when either is a NaN (R11). -/
def fle (a b : F32) : Bool := !isNaN32 a && !isNaN32 b && decide (orderKey32 a ≤ orderKey32 b)

/-- `clamp(v, lo, hi)`: a NaN `v` is returned unchanged (R11). -/
def fclamp (v lo hi : F32) : F32 := if flt v lo then lo else if flt hi v then hi else v

/-- `int_to_f32(n)`: exact for |n| < 2^24, the only integers R9 states; free beyond (notes/assumptions/9.md). -/
def intToF32 (n : Int) : F32 :=
  if n.natAbs < 16777216 then pack32 ⟨decide (n < 0), binary32.roundUnits (n.natAbs * 2 ^ 149) 1⟩
  else Config.intToF32Beyond n

/-- How many whole ones a finite binary32 magnitude holds. -/
def wholePart32 (x : F32) : Nat := binary32.units (x.toNat % 2147483648) / 2 ^ 149

/-- Whether a finite binary32 value is integral. -/
def isIntegral32 (x : F32) : Bool := decide (binary32.units (x.toNat % 2147483648) % 2 ^ 149 = 0)

/-- `floor_f32(x)`: the largest integral `f32` not greater than `x`; a value that is not finite is returned as it is. A zero keeps the sign of `x` (R11, notes/assumptions/16.md). -/
def ffloor (x : F32) : F32 :=
  if !isFinite32 x || isIntegral32 x then x
  else if x.msb then pack32 ⟨true, binary32.roundUnits ((wholePart32 x + 1) * 2 ^ 149) 1⟩
  else pack32 ⟨false, binary32.roundUnits (wholePart32 x * 2 ^ 149) 1⟩

/-- `round_away_f32(x)`: the nearest integral `f32`, halves away from zero; a value that is not finite is returned as it is. A zero keeps the sign of `x` (R11, notes/assumptions/16.md). -/
def froundAway (x : F32) : F32 :=
  if !isFinite32 x then x
  else pack32 ⟨x.msb,
    binary32.roundUnits ((binary32.units (x.toNat % 2147483648) + 2 ^ 148) / 2 ^ 149 * 2 ^ 149) 1⟩

/-- The integer value of an integral `f32` (R131); free for a value that is not finite (notes/assumptions/15.md). -/
def intOfF32 (x : F32) : Int :=
  if !isFinite32 x then Config.indexOfNonFinite x
  else if x.msb then -((wholePart32 x : Nat) : Int) else ((wholePart32 x : Nat) : Int)

/-! ## binary64 -/

/-- Sign and magnitude of a binary64 pattern. -/
def unpack64 (x : F64) : SignMag := ⟨x.msb, x.toNat % 9223372036854775808⟩

/-- The binary64 pattern of a sign and a magnitude. -/
def pack64 (v : SignMag) : F64 :=
  BitVec.ofNat 64 (if v.neg then 9223372036854775808 + v.mag else v.mag)

/-- A binary64 NaN. -/
def isNaN64 (x : F64) : Bool := decide (0x7FF0000000000000 < x.toNat % 9223372036854775808)

/-- `isFinite` of a binary64 value (R250). -/
def isFinite64 (x : F64) : Bool := decide (x.toNat % 9223372036854775808 < 0x7FF0000000000000)

/-- A binary64 NaN result: some NaN, its bit pattern free (I8). -/
def nan64 (src : NanSource) (a b : F64) : F64 :=
  if isNaN64 (Config.nanBits64 src a b) then Config.nanBits64 src a b else 0x7FF8000000000000#64

/-- A binary64 result. -/
def result64 (src : NanSource) (a b : F64) : Option SignMag → F64
  | none => nan64 src a b
  | some v => pack64 v

/-- Unary minus on `f64`: flips the sign bit (R9). -/
def dneg (a : F64) : F64 := a ^^^ 0x8000000000000000#64

/-- `a + b` on `f64` (R9). -/
def dadd (a b : F64) : F64 := result64 .add a b (binary64.addSM (unpack64 a) (unpack64 b))

/-- `a - b` on `f64` (R9). -/
def dsub (a b : F64) : F64 := result64 .sub a b (binary64.addSM (unpack64 a) (unpack64 (dneg b)))

/-- `a * b` on `f64` (R9). -/
def dmul (a b : F64) : F64 := result64 .mul a b (binary64.mulSM (unpack64 a) (unpack64 b))

/-- `a / b` on `f64` (R9). -/
def ddiv (a b : F64) : F64 := result64 .div a b (binary64.divSM (unpack64 a) (unpack64 b))

/-- The order of the non-NaN binary64 values. -/
def orderKey64 (x : F64) : Int :=
  if x.msb then -((x.toNat % 9223372036854775808 : Nat) : Int)
  else ((x.toNat % 9223372036854775808 : Nat) : Int)

/-- `a < b` on `f64`, false when either is a NaN (R11). -/
def dlt (a b : F64) : Bool := !isNaN64 a && !isNaN64 b && decide (orderKey64 a < orderKey64 b)

/-! ## Conversions (R9) -/

/-- `to32(v)`: nearest `f32`, ties to even (R9). -/
def to32 (c : Cfg) (v : F64) : F32 :=
  if isNaN64 v then nan32 .narrow v 0
  else if !isFinite64 v then pack32 ⟨v.msb, 0x7F800000⟩
  else pack32 ⟨v.msb, flushMag c
    (binary32.roundUnits (binary64.units (v.toNat % 9223372036854775808)) (2 ^ 925))⟩

/-- `to64(x)`: exact (R9). -/
def to64 (x : F32) : F64 :=
  if isNaN32 x then nan64 .widen (x.setWidth 64) 0
  else if !isFinite32 x then pack64 ⟨x.msb, 0x7FF0000000000000⟩
  else pack64 ⟨x.msb, binary64.roundUnits (binary32.units (x.toNat % 2147483648) * 2 ^ 925) 1⟩

/-! ## Literals (R10): binary32 and binary64 patterns nearest to the spec's decimals (tests relate them to the decimals) -/

/-- The binary32 pattern nearest to the decimal `n / d`, `n` non-negative (R10). -/
def decimal32 (n d : Nat) : F32 := pack32 ⟨false, binary32.roundUnits (n * 2 ^ 149) d⟩

/-- The binary64 pattern nearest to the decimal `n / d`, `n` non-negative (R10). -/
def decimal64 (n d : Nat) : F64 := pack64 ⟨false, binary64.roundUnits (n * 2 ^ 1074) d⟩

/-- `HALF_PI_F` (R10). -/
def halfPiF : F32 := 0x3FC90FDB#32

/-- `PI_D` (R10). -/
def piD : F64 := 0x400921FB54442D18#64

end Sys2Proof.Machine
end

