-- ==== Sys2Proof/Machine/Literals.lean ====
section
/-! DEFINITION. The constants of the signal path as bit patterns (R10, R119): each is the binary32 or binary64 value nearest to the decimal its comment names. -/

namespace Sys2Proof.Machine

/-- 0f: +0.0. -/
def lit0 : F32 := 0x00000000#32

/-- 0.05f: quantizer blend (R119). -/
def lit0p05 : F32 := 0x3D4CCCCD#32

/-- 0.1f: threshold and throttle (R119). -/
def lit0p1 : F32 := 0x3DCCCCCD#32

/-- 0.11f: pink scale (R119). -/
def lit0p11 : F32 := 0x3DE147AE#32

/-- 0.1848f: white tap (R119). -/
def lit0p1848 : F32 := 0x3E3D3C36#32

/-- 0.2f: pink/white blend (R119). -/
def lit0p2 : F32 := 0x3E4CCCCD#32

/-- 0.3f: noise smoothing (R119). -/
def lit0p3 : F32 := 0x3E99999A#32

/-- 0.5f: interpolation (R119). -/
def lit0p5 : F32 := 0x3F000000#32

/-- 0.7f: noise smoothing (R119). -/
def lit0p7 : F32 := 0x3F333333#32

/-- 0.8f: pink/white blend (R119). -/
def lit0p8 : F32 := 0x3F4CCCCD#32

/-- 0.9f: saturation drive (R119). -/
def lit0p9 : F32 := 0x3F666666#32

/-- 0.95f: feedback ceiling, quantizer blend (R119). -/
def lit0p95 : F32 := 0x3F733333#32

/-- 1f: unit gain, least delay (R130, R151). -/
def lit1 : F32 := 0x3F800000#32

/-- 1.1f: makeup gain (R119). -/
def lit1p1 : F32 := 0x3F8CCCCD#32

/-- 1.5f: interpolation (R119). -/
def lit1p5 : F32 := 0x3FC00000#32

/-- 2f: interpolation, ratio (R119, R151). -/
def lit2 : F32 := 0x40000000#32

/-- 2.5f: interpolation (R119). -/
def lit2p5 : F32 := 0x40200000#32

/-- 3f: gain ceiling (R119). -/
def lit3 : F32 := 0x40400000#32

/-- 6f: noise floor rise (R170). -/
def lit6 : F32 := 0x40C00000#32

/-- 20f: dB factor, least delay in ms (R110, R151). -/
def lit20 : F32 := 0x41A00000#32

/-- -20f: threshold in dB (R151). -/
def litNeg20 : F32 := 0xC1A00000#32

/-- -60f: noise floor base in dB (R170). -/
def litNeg60 : F32 := 0xC2700000#32

/-- 95f: highest feedback percent (R110). -/
def lit95 : F32 := 0x42BE0000#32

/-- 100f: highest percent (R110, R130, R210). -/
def lit100 : F32 := 0x42C80000#32

/-- 300f: longest delay in ms (R110, R170). -/
def lit300 : F32 := 0x43960000#32

/-- 1000f: ms per second (R130). -/
def lit1000 : F32 := 0x447A0000#32

/-- 0.99765f: pink state 0 (R119). -/
def pole0 : F32 := 0x3F7F65FE#32

/-- 0.0990460f: pink state 0 (R119). -/
def gain0 : F32 := 0x3DCAD8A1#32

/-- 0.96300f: pink state 1 (R119). -/
def pole1 : F32 := 0x3F76872B#32

/-- 0.2965164f: pink state 1 (R119). -/
def gain1 : F32 := 0x3E97D0FF#32

/-- 0.57000f: pink state 2 (R119). -/
def pole2 : F32 := 0x3F11EB85#32

/-- 1.0526913f: pink state 2 (R119). -/
def gain2 : F32 := 0x3F86BE97#32

/-- 1d (R112, R191). -/
def dbl1 : F64 := 0x3FF0000000000000#64

/-- -1d (R112). -/
def dblNeg1 : F64 := 0xBFF0000000000000#64

/-- 2d (R191). -/
def dbl2 : F64 := 0x4000000000000000#64

/-- -2d (R191). -/
def dblNeg2 : F64 := 0xC000000000000000#64

/-- 0.001d compander attack time in seconds (R112). -/
def dbl0p001 : F64 := 0x3F50624DD2F1A9FC#64

/-- 0.050d compander release time in seconds (R112). -/
def dbl0p050 : F64 := 0x3FA999999999999A#64

/-- 0.005d mix time constant in seconds (R112). -/
def dbl0p005 : F64 := 0x3F747AE147AE147B#64

/-- 0.707d Q (R191). -/
def dbl0p707 : F64 := 0x3FE69FBE76C8B439#64

/-- 100d (R195). -/
def dbl100 : F64 := 0x4059000000000000#64

/-- 3000d lowest tone cutoff in Hz (R195). -/
def dbl3000 : F64 := 0x40A7700000000000#64

/-- 5000d anti-alias cutoff and tone cutoff span in Hz (R191, R195). -/
def dbl5000 : F64 := 0x40B3880000000000#64

/-- 16000d the sample rate must exceed it (R251). -/
def dbl16000 : F64 := 0x40CF400000000000#64

end Sys2Proof.Machine
end

