-- ==== Sys2Proof/Machine/Numerics.lean ====
section
/-! DEFINITION. The numerics configuration NUM (R13): the transcendental functions of the core. `reference` evaluates each function in fixed point far beyond the precision of its result and rounds once (the spec's reference, correctly rounded functions; notes/assumptions/10.md); `supplied` takes the opaque functions of Config. -/

namespace Sys2Proof.Machine

/-! ## Fixed-point evaluation -/

/-- `f n`, with `n` brought to a numeral first when the kernel evaluates it. -/
def forced {α : Type} (n : Nat) (f : Nat → α) : α :=
  match n with
  | 0 => f 0
  | k + 1 => f (k + 1)

/-- π times 2^2600, rounded down. -/
def piFix : Nat :=
  0x3243f6a8885a308d313198a2e03707344a4093822299f31d0082efa98ec4e6c89452821e638d01377be5466cf34e90c6cc0ac29b7c97c50dd3f84d5b5b54709179216d5d98979fb1bd1310ba698dfb5ac2ffd72dbd01adfb7b8e1afed6a267e96ba7c9045f12c7f9924a19947b3916cf70801f2e2858efc16636920d871574e69a458fea3f4933d7e0d95748f728eb658718bcd5882154aee7b54a41dc25a59b59c30d5392af26013c5d1b023286085f0ca417918b8db38ef8e79dcb0603a180e6c9e0e8bb01e8a3ed71577c1bd314b2778af2fda55605c60e65525f3aa55ab945748986263e8144055ca396a2aab10b6b4cc5c341141e8cea15486af7c72e993b3ee1411636fbc2a2ba9c55d741831f6ce5c3e169b87931eafd6ba336c24cf5c7a325381289586773b8f48986b4bb9afc4bfe81b6628219361d809ccfb21a991487cac605d

/-- ln 2 times 2^1400, rounded down. -/
def ln2Fix : Nat :=
  0xb17217f7d1cf79abc9e3b39803f2f6af40f343267298b62d8a0d175b8baafa2be7b876206debac98559552fb4afa1b10ed2eae35c138214427573b291169b8253e96ca16224ae8c51acbda11317c387eb9ea9bc3b136603b256fa0ec7657f74b72ce87b19d6548caf5dfa6bd38303248655fa1872f20e3a2da2d97c50f3fd5c607f4ca11fb5bfb90610d30f88fe551a2ee569d6dfc1efa157d2e23de1400b39617460775db8990e5c943e732b479cd

/-- ln 10 times 2^400, rounded down. -/
def ln10Fix : Nat :=
  0x24d763776aaa2b05ba95b58ae0b4c28a38a3fb3e76977e43a0f187a0807c0b5ca58bc0b5ec6a0417331c32f00b17c35a0b188

/-- `acc` plus the terms of the exponential series after the term `t = x^(k-1)/(k-1)!`, all scaled by `2 ^ p`, until a term vanishes. -/
def expSeries (p x : Nat) : (fuel k t acc : Nat) → Nat
  | 0, _, _, acc => acc
  | fuel + 1, k, t, acc =>
    forced (t * x / (k * 2 ^ p)) fun t' =>
      if t' = 0 then acc else forced (acc + t') fun acc' => expSeries p x fuel (k + 1) t' acc'

/-- `e ^ x` for `0 ≤ x < 1`, both scaled by `2 ^ p`. -/
def expSmall (p x : Nat) : Nat := expSeries p x 600 1 (2 ^ p) (2 ^ p)

/-- The alternating series of sine and cosine from the term `t` of degree `k`: the terms go to the two sums in turn, and the value (never negative on the first quadrant) is the distance of the sums. -/
def circularSeries (p x : Nat) : (fuel k t this other : Nat) → Nat
  | 0, _, _, this, other => (this - other) + (other - this)
  | fuel + 1, k, t, this, other =>
    if t = 0 then (this - other) + (other - this)
    else forced (t * x * x / ((k + 1) * (k + 2) * 2 ^ (2 * p))) fun t' =>
      forced (this + t) fun this' => circularSeries p x fuel (k + 2) t' other this'

/-- `sin x` for `x` of the first quadrant, both scaled by `2 ^ p`. -/
def sinSmall (p x : Nat) : Nat := circularSeries p x 600 1 x 0 0

/-- `cos x` for `x` of the first quadrant, both scaled by `2 ^ p`. -/
def cosSmall (p x : Nat) : Nat := circularSeries p x 600 0 (2 ^ p) 0 0

/-- `acc` plus the terms of the series of `artanh z` from `t = z^k` on, `t` and `zz = z * z` scaled by `2 ^ p`. -/
def artanhSeries (p zz : Nat) : (fuel k t acc : Nat) → Nat
  | 0, _, _, acc => acc
  | fuel + 1, k, t, acc =>
    if t = 0 then acc
    else forced (t * zz / 2 ^ p) fun t' =>
      forced (acc + t / k) fun acc' => artanhSeries p zz fuel (k + 2) t' acc'

/-- `e ^ x` for `x ≥ 0` scaled by `2 ^ p`, as `(E, k)` with the value `E * 2 ^ k / 2 ^ p`. -/
def expScaled (p x : Nat) : Nat × Nat :=
  let ln2 := ln2Fix / 2 ^ (1400 - p)
  forced (x / ln2) fun k => forced (x % ln2) fun r => (expSmall p r, k)

/-- The angle of `u` smallest subnormals reduced by quarter turns: the quadrant and the rest, the rest scaled by `2 ^ p`. -/
def reduceAngle (p unit u : Nat) : Nat × Nat :=
  forced (u * 2 ^ (2600 - unit) % (2 * piFix)) fun r =>
    (r / (piFix / 2) % 4, r % (piFix / 2) / 2 ^ (2600 - p))

/-- The sine of a finite value of format `f`, rounded once. -/
def FloatFormat.refSin (f : FloatFormat) (p : Nat) (x : SignMag) : SignMag :=
  let a := reduceAngle p f.unit (f.units x.mag)
  let v := if a.1 % 2 = 0 then sinSmall p a.2 else cosSmall p a.2
  ⟨x.neg != decide (2 ≤ a.1), f.roundUnits (v * 2 ^ f.unit) (2 ^ p)⟩

/-- The cosine of a finite value of format `f`, rounded once. -/
def FloatFormat.refCos (f : FloatFormat) (p : Nat) (x : SignMag) : SignMag :=
  let a := reduceAngle p f.unit (f.units x.mag)
  let v := if a.1 % 2 = 0 then cosSmall p a.2 else sinSmall p a.2
  ⟨decide (a.1 = 1) || decide (a.1 = 2), f.roundUnits (v * 2 ^ f.unit) (2 ^ p)⟩

/-! ## The reference functions -/

/-- Reference `tanh_f32` on non-negative values: from 20.0 on the nearest binary32 value is 1.0. -/
def refTanh32 (x : F32) : F32 :=
  if 0x41A00000 ≤ x.toNat % 2147483648 then lit1
  else
    let e := expScaled 320 (binary32.units (x.toNat % 2147483648) * 2 ^ 172)
    forced (e.1 * 2 ^ e.2) fun y =>
      pack32 ⟨false, binary32.roundUnits ((y - 2 ^ 320) * 2 ^ 149) (y + 2 ^ 320)⟩

/-- Reference `sin_f32`. -/
def refSin32 (x : F32) : F32 :=
  if !isFinite32 x then nan32 .sin (x.setWidth 64) 0 else pack32 (binary32.refSin 320 (unpack32 x))

/-- Reference `cos_f32`. -/
def refCos32 (x : F32) : F32 :=
  if !isFinite32 x then nan32 .cos (x.setWidth 64) 0 else pack32 (binary32.refCos 320 (unpack32 x))

/-- Reference `log10_f32`: the natural logarithm of the significand by `artanh`, plus the exponent times ln 2, over ln 10. -/
def refLog10F32 (x : F32) : F32 :=
  if isNaN32 x then nan32 .log10 (x.setWidth 64) 0
  else if isZero32 x then 0xFF800000#32
  else if x.msb then nan32 .log10 (x.setWidth 64) 0
  else if isInf32 x then x
  else
    let u := binary32.units (x.toNat % 2147483648)
    let e := Nat.log2 u
    forced (u * 2 ^ (320 - e)) fun m =>
    forced ((m - 2 ^ 320) * 2 ^ 320 / (m + 2 ^ 320)) fun z =>
    forced (z * z / 2 ^ 320) fun zz =>
    forced (2 * artanhSeries 320 zz 400 1 z 0) fun lnM =>
    let ln2 := ln2Fix / 2 ^ 1080
    forced (lnM + e * ln2) fun above =>
    forced (149 * ln2) fun below =>
    pack32 ⟨decide (above < below),
      binary32.roundUnits (((above - below) + (below - above)) * 2 ^ 149) (ln10Fix / 2 ^ 80)⟩

/-- Reference `pow10_f32`: beyond 64 in magnitude the result overflows or vanishes. -/
def refPow10F32 (x : F32) : F32 :=
  if isNaN32 x then nan32 .pow10 (x.setWidth 64) 0
  else if 0x42800000 ≤ x.toNat % 2147483648 then (if x.msb then lit0 else 0x7F800000#32)
  else
    let e := expScaled 320 (binary32.units (x.toNat % 2147483648) * 2 ^ 171 * ln10Fix / 2 ^ 400)
    forced (e.1 * 2 ^ e.2) fun y =>
      if x.msb then pack32 ⟨false, binary32.roundUnits (2 ^ 469) y⟩
      else pack32 ⟨false, binary32.roundUnits (y * 2 ^ 149) (2 ^ 320)⟩

/-- Reference `exp_f64`: beyond 1024 in magnitude the result overflows or vanishes. -/
def refExp64 (x : F64) : F64 :=
  if isNaN64 x then nan64 .exp x 0
  else if 0x4090000000000000 ≤ x.toNat % 9223372036854775808 then
    (if x.msb then 0#64 else 0x7FF0000000000000#64)
  else
    let e := expScaled 1300 (binary64.units (x.toNat % 9223372036854775808) * 2 ^ 226)
    forced (e.1 * 2 ^ e.2) fun y =>
      if x.msb then pack64 ⟨false, binary64.roundUnits (2 ^ 2374) y⟩
      else pack64 ⟨false, binary64.roundUnits (y * 2 ^ 1074) (2 ^ 1300)⟩

/-- Reference `sin_f64`. -/
def refSin64 (x : F64) : F64 :=
  if !isFinite64 x then nan64 .sin x 0 else pack64 (binary64.refSin 1300 (unpack64 x))

/-- Reference `cos_f64`. -/
def refCos64 (x : F64) : F64 :=
  if !isFinite64 x then nan64 .cos x 0 else pack64 (binary64.refCos 1300 (unpack64 x))

/-! ## The functions of NUM -/

/-- A value of [-1, 1], not a NaN. -/
def withinOne (x : F32) : Bool := decide (x.toNat % 2147483648 ≤ 0x3F800000)

/-- `x` when it lies in [-1, 1], else +0.0. -/
def boundedByOne (x : F32) : F32 := if withinOne x then x else lit0

/-- `tanh_f32` (R13): NaN for NaN, ±0 for ±0, odd, in [-1, 1]. Every function with these properties is this one for some choice of `Config.tanhF32`. -/
def tanhF32 (c : Cfg) (x : F32) : F32 :=
  if isNaN32 x then nan32 .tanh (x.setWidth 64) 0
  else if isZero32 x then x
  else
    let y := boundedByOne (flush32 c
      (match c.num with
       | .reference => refTanh32 (clearSign x)
       | .supplied => Config.tanhF32 (clearSign x)))
    if x.msb then flipSign y else y

/-- `sin_f32` (R13). -/
def sinF32 (c : Cfg) (x : F32) : F32 :=
  flush32 c (match c.num with | .reference => refSin32 x | .supplied => Config.sinF32 x)

/-- `cos_f32` (R13). -/
def cosF32 (c : Cfg) (x : F32) : F32 :=
  flush32 c (match c.num with | .reference => refCos32 x | .supplied => Config.cosF32 x)

/-- `log10_f32` (R13). -/
def log10F32 (c : Cfg) (x : F32) : F32 :=
  flush32 c (match c.num with | .reference => refLog10F32 x | .supplied => Config.log10F32 x)

/-- `pow10_f32`, 10 to the power `x` (R13). -/
def pow10F32 (c : Cfg) (x : F32) : F32 :=
  flush32 c (match c.num with | .reference => refPow10F32 x | .supplied => Config.pow10F32 x)

/-- `exp_f64` (R13). -/
def expF64 (c : Cfg) (x : F64) : F64 :=
  match c.num with | .reference => refExp64 x | .supplied => Config.expF64 x

/-- `sin_f64` (R13). -/
def sinF64 (c : Cfg) (x : F64) : F64 :=
  match c.num with | .reference => refSin64 x | .supplied => Config.sinF64 x

/-- `cos_f64` (R13). -/
def cosF64 (c : Cfg) (x : F64) : F64 :=
  match c.num with | .reference => refCos64 x | .supplied => Config.cosF64 x

end Sys2Proof.Machine
end

