-- ==== Sys2Proof/Machine/State.lean ====
section
/-! DEFINITION. The state of the core as plain data (R20 to R34, R62, R63), its value at power-on (R40, R300), and the reasons a step can stop. -/

namespace Sys2Proof.Machine

/-- The five coefficients of a second-order section (R30, R191). -/
structure Coeffs where
  b0 : F32
  b1 : F32
  b2 : F32
  a1 : F32
  a2 : F32
  deriving DecidableEq, Repr

/-- `dly` (R30): the ring in delay RAM as (index, element) pairs, indices rising, elements of +0.0 unlisted (notes/assumptions/21.md), and the write index. -/
structure DelayLine where
  ring : List (Nat × F32)
  w : Nat
  deriving DecidableEq, Repr

/-- `cmp` (R30): the two envelopes. -/
structure Compander where
  envC : F32
  envE : F32
  deriving DecidableEq, Repr

/-- `bbd` (R30): the pink-filter states and the previous smoothed noise. -/
structure Artifact where
  p0 : F32
  p1 : F32
  p2 : F32
  prev : F32
  deriving DecidableEq, Repr

/-- `flt` (R30): coefficients and states of both sections; `lastTone` is `none` for UNSET. -/
structure FilterPair where
  aa : Coeffs
  aaS1 : F32
  aaS2 : F32
  tn : Coeffs
  tnS1 : F32
  tnS2 : F32
  lastTone : Option F32
  deriving DecidableEq, Repr

/-- `mix` (R30). -/
structure MixState where
  sm : F32
  primed : Bool
  deriving DecidableEq, Repr

/-- The noise source's side of an instance (R34, R117): the draws it presents next, and how many draws have been taken. The model's own fields (notes/assumptions/13.md). -/
structure Noise where
  queue : List F32
  taken : Nat
  deriving DecidableEq, Repr

/-- One stage instance `inst(ch, st)` (R30). -/
structure Inst where
  dly : DelayLine
  cmp : Compander
  bbd : Artifact
  flt : FilterPair
  mix : MixState
  noise : Noise
  deriving DecidableEq, Repr

/-- The four parameters of a stage: the S1_ or S2_ registers (R25), or a stage parameter set (R231). -/
structure StageParams where
  delayMs : F32
  feedbackPct : F32
  mixPct : F32
  tonePct : F32
  deriving DecidableEq, Repr

/-- The engine state (R29). FS_LO and FS_HI are views of `fs`, MAX_BLOCK of `maxb`, CAPACITY of `cap`, STATUS.PREPARED of `prep`. -/
structure Engine where
  prep : Bool
  fs : F64
  fs32 : F32
  maxb : Word
  cap : Nat
  att : F32
  rel : F32
  mixc : F32
  deriving DecidableEq, Repr

/-- The whole machine (R20), the configuration it is an implementation of (R21), and what the outside world has in store for it. -/
structure State where
  /-- The parameters of R6; no step changes them (R21, notes/assumptions/8.md). -/
  cfg : Cfg
  /-- STATUS.ERR (R26). -/
  err : BitVec 4
  /-- CTRL bits 1:0, MODE and BYPASS (R27). -/
  ctrl : BitVec 2
  /-- BLOCK_LEN (R24). -/
  blockLen : Word
  /-- The engine state (R29). -/
  eng : Engine
  /-- S1_DELAY_MS, S1_FEEDBACK_PCT, S1_MIX_PCT, S1_TONE_PCT (R25). -/
  s1 : StageParams
  /-- S2_DELAY_MS, S2_FEEDBACK_PCT, S2_MIX_PCT, S2_TONE_PCT (R25). -/
  s2 : StageParams
  a0 : Word
  a1 : Word
  a2 : Word
  a3 : Word
  a4 : Word
  a5 : Word
  /-- RESULT (R23). -/
  result : Word
  /-- `inst(0, 0)`: left channel, stage 1. -/
  i00 : Inst
  /-- `inst(0, 1)`: left channel, stage 2. -/
  i01 : Inst
  /-- `inst(1, 0)`: right channel, stage 1. -/
  i10 : Inst
  /-- `inst(1, 1)`: right channel, stage 2. -/
  i11 : Inst
  /-- The sample buffers (R62): bytes at offsets from BASE, offsets rising, bytes of 0 unlisted (notes/assumptions/6.md). -/
  mem : List Host.Cell
  /-- Host events not yet performed, oldest first (R70, notes/assumptions/1.md). -/
  host : List HostEvent
  /-- CTRL writes that arrive while the next command runs: after how many samples, and the word written (R70, notes/assumptions/2.md). -/
  control : List (Nat × Word)
  /-- The words returned to host reads, newest first (notes/assumptions/18.md). -/
  reads : List Word
  deriving DecidableEq, Repr

/-- The fault codes of R270 that a command can record in STATUS.ERR. -/
inductive FaultCode where
  | illegalOpcode
  | reservedBits
  | badSampleRate
  | badBlockSize
  | nanParameter
  deriving DecidableEq, Repr

/-- Why the machine has no next state. The faults of R270 are none of these: after them the core goes on (R272). -/
inductive Fault where
  /-- Raised by `step` for a host access that is not 32 bits wide at an offset that is a multiple of 4, to which the spec gives no step (R65, I1, I19: stuck). Safe: nothing can be proved of a run beyond it. -/
  | unadmittedAccess
  deriving DecidableEq, Repr

/-- What the model refuses. -/
inductive Refusal where
  /-- Raised by `exec` for an instruction without a meaning; no instruction is without one. Safe. -/
  | notModelled (mnemonic : String)
  /-- Raised by `step` for a host access outside the window, which the core does not decode: "what they reach is the platform's" (R61, I18). Safe. -/
  | outsideWindow
  /-- Raised by `step` when BUF_WORDS is outside 1 to 16384: "a configuration with BUF_WORDS outside 1..16384 is refused" (I13 of 93_implementation_defined.md; R6). No other parameter value is refused. Safe. -/
  | illegalConfiguration
  deriving DecidableEq, Repr

/-- All coefficients +0.0 (R40). -/
def Coeffs.zero : Coeffs := ⟨0#32, 0#32, 0#32, 0#32, 0#32⟩

/-- A stage instance at power-on (R40). -/
def Inst.powerOn : Inst where
  dly := ⟨[], 0⟩
  cmp := ⟨0#32, 0#32⟩
  bbd := ⟨0#32, 0#32, 0#32, 0#32⟩
  flt := ⟨Coeffs.zero, 0#32, 0#32, Coeffs.zero, 0#32, 0#32, none⟩
  mix := ⟨0#32, true⟩
  noise := ⟨[], 0⟩

/-- The parameter registers at power-on: 100.0, 30.0, 50.0, 70.0 (R24, R25). -/
def StageParams.powerOn : StageParams := ⟨0x42C80000#32, 0x41F00000#32, 0x42480000#32, 0x428C0000#32⟩

/-- The engine state at power-on (R40). -/
def Engine.powerOn : Engine where
  prep := false
  fs := 0#64
  fs32 := 0#32
  maxb := 0#32
  cap := 0
  att := 0#32
  rel := 0#32
  mixc := 0#32

/-- An implementation with configuration `c` at power-on (R40, R300). A0 to A5 and RESULT, which the spec leaves unspecified, are 0: a DESIGN CHOICE, unsafe (notes/assumptions/5.md). -/
def State.powerOn (c : Cfg) : State where
  cfg := c
  err := 0#4
  ctrl := 0#2
  blockLen := 0#32
  eng := Engine.powerOn
  s1 := StageParams.powerOn
  s2 := StageParams.powerOn
  a0 := 0#32
  a1 := 0#32
  a2 := 0#32
  a3 := 0#32
  a4 := 0#32
  a5 := 0#32
  result := 0#32
  i00 := Inst.powerOn
  i01 := Inst.powerOn
  i10 := Inst.powerOn
  i11 := Inst.powerOn
  mem := []
  host := []
  control := []
  reads := []

/-- The machine right after reset: power-on (R300), of an implementation with the reference values of R6. -/
def State.reset : State := State.powerOn Cfg.referenceValues

end Sys2Proof.Machine
end

