-- ==== Sys2Proof/Machine/Flags.lean ====
section
/-! DEFINITION. The status and control bits: STATUS and its fault codes (R26, R270), CTRL (R27). The core has no condition codes (R26, R271). -/

namespace Sys2Proof.Machine

/-- The code of a fault in STATUS.ERR (R270). -/
def FaultCode.number : FaultCode → BitVec 4
  | .illegalOpcode => 1#4
  | .reservedBits => 2#4
  | .badSampleRate => 3#4
  | .badBlockSize => 4#4
  | .nanParameter => 5#4

/-- The STATUS word: PREPARED at bit 0, ERR at bits 7:4, every other bit 0 (R26). -/
def State.statusWord (s : State) : Word :=
  0#24 ++ s.err ++ 0#3 ++ (if s.eng.prep then 1#1 else 0#1)

/-- CTRL as a word: bits 31:2 read 0 (R27). -/
def State.ctrlWord (s : State) : Word := 0#30 ++ s.ctrl

/-- What a write of `v` leaves in CTRL: bits 1:0 (R27, R66). -/
def ctrlBits (v : Word) : BitVec 2 := v.extractLsb' 0 2

/-- CTRL.BYPASS (R27). -/
def State.bypass (s : State) : Bool := s.ctrl.getLsbD 0

/-- CTRL.MODE: true is cascaded (R27). -/
def State.cascaded (s : State) : Bool := s.ctrl.getLsbD 1

end Sys2Proof.Machine
end

