-- ==== Sys2Proof/Machine/Ops.lean ====
section
/-! DEFINITION. The named operations over memory and registers: canonical cell lists, the sample buffers, the stage instances, RESULT, the CTRL writes inside a command, and taking a fault (R272). -/

namespace Sys2Proof.Machine

/-! ## Cells: sparse contents in one canonical form -/

/-- What the cell at `a` holds; an unlisted cell holds 0. -/
def cellGet {n : Nat} : List (Nat × BitVec n) → Nat → BitVec n
  | [], _ => 0
  | (k, x) :: m, a => if k = a then x else cellGet m a

/-- The cell at `a` set to `v`, keeping the canonical form: a cell set to 0 is unlisted. -/
def cellSet {n : Nat} : List (Nat × BitVec n) → Nat → BitVec n → List (Nat × BitVec n)
  | [], a, v => if v = 0 then [] else [(a, v)]
  | (k, x) :: m, a, v =>
    if a < k then (if v = 0 then (k, x) :: m else (a, v) :: (k, x) :: m)
    else if a = k then (if v = 0 then m else (a, v) :: m)
    else (k, x) :: cellSet m a v

/-- Every listed address is at least `lo`, the addresses rise strictly, and no listed cell holds 0. -/
def cellsFrom {n : Nat} : Nat → List (Nat × BitVec n) → Bool
  | _, [] => true
  | lo, (k, x) :: m => decide (lo ≤ k) && x != 0 && cellsFrom (k + 1) m

/-- The canonical form of cell contents. -/
def cellsWf {n : Nat} (m : List (Nat × BitVec n)) : Bool := cellsFrom 0 m

/-- The canonical form of the sample-buffer memory. -/
def Memory.wf (m : List Host.Cell) : Bool := cellsWf m

/-! ## The sample buffers: little-endian words of bytes (R62, R64) -/

/-- The byte at window offset `a`. -/
def State.readByte (s : State) (a : Nat) : Byte := cellGet s.mem a

/-- The 32-bit word at offset `a`: bits 7:0 at `a`, 31:24 at `a + 3` (R64). -/
def wordAt (m : List Host.Cell) (a : Nat) : Word :=
  cellGet m (a + 3) ++ cellGet m (a + 2) ++ cellGet m (a + 1) ++ cellGet m a

/-- Memory with the 32-bit word `v` stored at offset `a` (R64). -/
def setWordAt (m : List Host.Cell) (a : Nat) (v : Word) : List Host.Cell :=
  cellSet (cellSet (cellSet (cellSet m a (v.extractLsb' 0 8)) (a + 1) (v.extractLsb' 8 8))
    (a + 2) (v.extractLsb' 16 8)) (a + 3) (v.extractLsb' 24 8)

/-- The offset of a channel's sample buffer: 0x10000 × (ch + 1) (R62). -/
def bufBase : Channel → Nat
  | .left => 0x10000
  | .right => 0x20000

/-- The offset of `BUF(ch)[i]` (R62). -/
def bufOffset (ch : Channel) (i : Nat) : Nat := bufBase ch + 4 * i

/-- `BUF(ch)[i]`; a word the buffer does not have is reserved and reads 0 (R62). -/
def State.bufRead (s : State) (ch : Channel) (i : Nat) : Word :=
  if i < s.cfg.bufWords then wordAt s.mem (bufOffset ch i) else 0#32

/-- `BUF(ch)[i] <- v`; a write to a word the buffer does not have is ignored (R62). -/
def State.bufWrite (s : State) (ch : Channel) (i : Nat) (v : Word) : State :=
  if i < s.cfg.bufWords then { s with mem := setWordAt s.mem (bufOffset ch i) v } else s

/-! ## Stage instances and RESULT -/

/-- `inst(ch, st)` (R30). -/
def State.inst (s : State) : Channel → Stage → Inst
  | .left, .one => s.i00
  | .left, .two => s.i01
  | .right, .one => s.i10
  | .right, .two => s.i11

/-- The state with `inst(ch, st)` replaced: no other instance changes (R31). -/
def State.setInst (s : State) (ch : Channel) (st : Stage) (I : Inst) : State :=
  match ch, st with
  | .left, .one => { s with i00 := I }
  | .left, .two => { s with i01 := I }
  | .right, .one => { s with i10 := I }
  | .right, .two => { s with i11 := I }

/-- The state with all four instances changed alike (R250, R256). -/
def State.mapInst (s : State) (f : Inst → Inst) : State :=
  { s with i00 := f s.i00, i01 := f s.i01, i10 := f s.i10, i11 := f s.i11 }

/-- `RESULT <- v` (R23). -/
def State.setResult (s : State) (v : F32) : State := { s with result := v }

/-! ## Taking a fault -/

/-- `raise FAULT(code)` (R272): ERR keeps the first fault, and nothing else changes. There is no trap entry and no return from one (R273, R274). -/
def raiseFault (code : FaultCode) (s : State) : State :=
  if s.err = 0#4 then { s with err := code.number } else s

/-! ## CTRL writes inside a running command (R70) -/

/-- CTRL and the writes still to come, after the writes that arrive by the time `k` samples are processed. -/
def dueControl (k : Nat) : List (Nat × Word) → BitVec 2 → BitVec 2 × List (Nat × Word)
  | [], ctrl => (ctrl, [])
  | (p, v) :: rest, ctrl => if p ≤ k then dueControl k rest (ctrlBits v) else (ctrl, (p, v) :: rest)

/-- The core performs at once the CTRL writes that have arrived when `k` samples are processed (R70). -/
def State.controlArrivals (s : State) (k : Nat) : State :=
  { s with ctrl := (dueControl k s.control s.ctrl).1, control := (dueControl k s.control s.ctrl).2 }

/-- CTRL after all the writes of a list. -/
def lastControl : List (Nat × Word) → BitVec 2 → BitVec 2
  | [], ctrl => ctrl
  | (_, v) :: rest, _ => lastControl rest (ctrlBits v)

/-- The end of a command: every CTRL write that arrived while it ran has been performed (R70). -/
def State.endCommand (s : State) : State :=
  { s with ctrl := lastControl s.control s.ctrl, control := [] }

end Sys2Proof.Machine
end

