-- ==== Sys2Proof/Machine/Operands.lean ====
section
/-! DEFINITION. The operands of commands (R96) and the parameters with their ranges (R110, R111, R231). -/

namespace Sys2Proof.Machine

/-- The parameters of R110. -/
inductive Param where
  | delayMs
  | feedbackPct
  | mixPct
  | tonePct
  deriving DecidableEq, Repr

/-- The parameter registers of a stage: S1_ for stage 1, S2_ for stage 2 (R92). -/
def State.stageRegs (s : State) : Stage → StageParams
  | .one => s.s1
  | .two => s.s2

/-- One register of a parameter set. -/
def StageParams.get (p : StageParams) : Param → F32
  | .delayMs => p.delayMs
  | .feedbackPct => p.feedbackPct
  | .mixPct => p.mixPct
  | .tonePct => p.tonePct

/-- `lo(P)` (R110). -/
def paramLo : Param → F32
  | .delayMs => lit20
  | .feedbackPct => lit0
  | .mixPct => lit0
  | .tonePct => lit0

/-- `hi(P)` (R110). -/
def paramHi : Param → F32
  | .delayMs => lit300
  | .feedbackPct => lit95
  | .mixPct => lit100
  | .tonePct => lit100

/-- The register `S<st+1>_P` (R110). -/
def State.paramReg (s : State) (st : Stage) (p : Param) : F32 := (s.stageRegs st).get p

/-- `ParamRead(st, P)`: the register clamped to the parameter's range (R110). -/
def State.paramRead (s : State) (st : Stage) (p : Param) : F32 :=
  fclamp (s.paramReg st p) (paramLo p) (paramHi p)

/-- `Params(st)` (R231). -/
def State.params (s : State) (st : Stage) : StageParams where
  delayMs := s.paramRead st .delayMs
  feedbackPct := s.paramRead st .feedbackPct
  mixPct := s.paramRead st .mixPct
  tonePct := s.paramRead st .tonePct

/-- Whether one of the parameter registers a command uses holds a NaN (R111). -/
def State.nanIn (s : State) (st : Stage) (used : List Param) : Bool :=
  used.any fun p => isNaN32 (s.paramReg st p)

/-- All four parameters (R233, R240). -/
def allParams : List Param := [.delayMs, .feedbackPct, .mixPct, .tonePct]

/-- PREPARE's sample rate: the `f64` with bit pattern `{A1, A0}` (R96). -/
def State.sampleRateOperand (s : State) : F64 := s.a1 ++ s.a0

end Sys2Proof.Machine
end

