-- ==== Sys2Proof/Machine/Command.lean ====
section
/-! DEFINITION. What several command families share: the soft clip (R114), the noise draw (R117), the time-constant coefficient (R112), and the frame of an instance command (R111, R116). -/

namespace Sys2Proof.Machine

/-- `softclip(x)` (R114). -/
def softclip (c : Cfg) (x : F32) : F32 := tanhF32 c x

/-- `tc(T) = to32(1.0d − exp_f64(−1.0d / (T × FS)))` (R112). -/
def timeCoefficient (c : Cfg) (fs t : F64) : F32 :=
  to32 c (dsub dbl1 (expF64 c (ddiv dblNeg1 (dmul t fs))))

/-- CH as a number (R91). -/
def chIndex : Channel → Nat
  | .left => 0
  | .right => 1

/-- ST as a number (R91). -/
def stIndex : Stage → Nat
  | .one => 0
  | .two => 1

/-- `NoiseDraw(ch, st)`: the next draw of the instance's own sequence, in [-1, 1] (R117). A listed draw outside the range, which the noise source never presents, counts as +0.0 (notes/assumptions/13.md). -/
def noiseDraw (ch : Channel) (st : Stage) (n : Noise) : Noise × F32 :=
  match n.queue with
  | [] => (⟨[], n.taken + 1⟩, boundedByOne (Config.noiseDraw (chIndex ch) (stIndex st) n.taken))
  | w :: rest => (⟨rest, n.taken + 1⟩, boundedByOne w)

/-- An instance command on `inst(ch, st)` that uses the parameter registers `used` and runs the module function `f`: before PREPARE the input is passed through (R116), a NaN parameter is a fault (R111), and otherwise the instance is updated and RESULT written (R23). -/
def instanceCommand (ch : Channel) (st : Stage) (used : List Param) (f : Inst → Inst × F32)
    (s : State) : State :=
  if !s.eng.prep then s.setResult s.a0
  else if s.nanIn st used then raiseFault .nanParameter s
  else (s.setInst ch st (f (s.inst ch st)).1).setResult (f (s.inst ch st)).2

end Sys2Proof.Machine
end

