-- ==== Sys2Proof/Machine/Filter.lean ====
section
/-! DEFINITION. The filter stage: LPF, SECTION, FILTER and FILTER_SAMPLE (44_filter.md). -/

namespace Sys2Proof.Machine

/-- `LPF(fc)` at the sample rate `fs`, in binary64 and stored as binary32 (R191). -/
def lowpass (c : Cfg) (fs fc : F64) : Coeffs :=
  let w0 := ddiv (dmul (dmul dbl2 piD) fc) fs
  let cw := cosF64 c w0
  let sw := sinF64 c w0
  let alpha := ddiv sw (dmul dbl2 dbl0p707)
  let a0 := dadd dbl1 alpha
  let b0 := to32 c (ddiv (ddiv (dsub dbl1 cw) dbl2) a0)
  { b0 := b0
    b1 := to32 c (ddiv (dsub dbl1 cw) a0)
    b2 := b0
    a1 := to32 c (ddiv (dmul dblNeg2 cw) a0)
    a2 := to32 c (ddiv (dsub dbl1 alpha) a0) }

/-- The tone cutoff in Hz of a tone percent (R195). -/
def toneCutoff (tone : F32) : F64 := dadd dbl3000 (dmul (ddiv (to64 tone) dbl100) dbl5000)

/-- One output of a section: `y = b0 * x + s1` (R193). -/
def sectionOut (c : Cfg) (k : Coeffs) (s1 x : F32) : F32 := fadd c (fmul c k.b0 x) s1

/-- `s1' = b1 * x - a1 * y + s2` (R193). -/
def sectionS1 (c : Cfg) (k : Coeffs) (s1 s2 x : F32) : F32 :=
  fadd c (fsub c (fmul c k.b1 x) (fmul c k.a1 (sectionOut c k s1 x))) s2

/-- `s2' = b2 * x - a2 * y` (R193). -/
def sectionS2 (c : Cfg) (k : Coeffs) (s1 x : F32) : F32 :=
  fsub c (fmul c k.b2 x) (fmul c k.a2 (sectionOut c k s1 x))

/-- Whether the tone coefficients are recomputed for `tone` (R192). -/
def toneChanged (c : Cfg) (tone : F32) : Option F32 → Bool
  | none => true
  | some last => flt lit0p1 (fabs c (fsub c tone last))

/-- The tone section's coefficients brought up to date (R192, R194). -/
def retune (c : Cfg) (g : Engine) (tone : F32) (f : FilterPair) : FilterPair :=
  if toneChanged c tone f.lastTone then
    { f with tn := lowpass c g.fs (toneCutoff tone), lastTone := some tone }
  else f

/-- Both sections on one sample: anti-alias first, then tone (R190, R194). -/
def runSections (c : Cfg) (x : F32) (f : FilterPair) : FilterPair × F32 :=
  let u := sectionOut c f.aa f.aaS1 x
  ({ f with
      aaS1 := sectionS1 c f.aa f.aaS1 f.aaS2 x
      aaS2 := sectionS2 c f.aa f.aaS1 x
      tnS1 := sectionS1 c f.tn f.tnS1 f.tnS2 u
      tnS2 := sectionS2 c f.tn f.tnS1 u },
    sectionOut c f.tn f.tnS1 u)

/-- The module function FILTER (R194). -/
def filter (c : Cfg) (g : Engine) (x tonePct : F32) (f : FilterPair) : FilterPair × F32 :=
  runSections c x (retune c g (fclamp tonePct lit0 lit100) f)

/-- FILTER on a stage instance. -/
def filterInst (c : Cfg) (g : Engine) (x tonePct : F32) (I : Inst) : Inst × F32 :=
  ({ I with flt := (filter c g x tonePct I.flt).1 }, (filter c g x tonePct I.flt).2)

/-- FILTER_SAMPLE (R196). -/
def execFilterSample (ch : Channel) (st : Stage) (s : State) : Host.Outcome State Fault Refusal :=
  .next (instanceCommand ch st [.tonePct] (filterInst s.cfg s.eng s.a0 (s.paramRead st .tonePct)) s)

end Sys2Proof.Machine
end

