-- ==== Sys2Proof/Machine/Lifecycle.lean ====
section
/-! DEFINITION. The lifecycle commands PREPARE and RESET (47_lifecycle.md). -/

namespace Sys2Proof.Machine

/-- `CAPACITY(fs) = ⌈3 × fs / 10⌉ + 4`, exact, for a non-negative finite `fs` (R252). -/
def capacityOf (fs : F64) : Nat :=
  let u := binary64.units (fs.toNat % 9223372036854775808)
  (3 * u + (10 * 2 ^ 1074 - 1)) / (10 * 2 ^ 1074) + 4

/-- A legal sample rate: finite, above 16000.0, and its ring fits the delay RAM (R251). -/
def rateLegal (c : Cfg) (fs : F64) : Bool :=
  isFinite64 fs && dlt dbl16000 fs && decide (capacityOf fs ≤ c.delayRamWords)

/-- A legal maximum block size (R251). -/
def blockSizeLegal (c : Cfg) (mb : Word) : Bool :=
  mb != 0#32 && decide (mb.toNat ≤ c.bufWords)

/-- `CLEAR(I)` (R253): every history field at its initial value; `flt.aa` and `flt.tn` stay. -/
def clearInst (c : Cfg) (I : Inst) : Inst :=
  { I with
    dly := ⟨[], 0⟩
    cmp := ⟨0#32, 0#32⟩
    bbd := ⟨0#32, 0#32, 0#32, 0#32⟩
    flt := { I.flt with aaS1 := 0#32, aaS2 := 0#32, tnS1 := 0#32, tnS2 := 0#32, lastTone := none }
    mix := ⟨0#32, decide (c.mixInit = .zero)⟩ }

/-- What PREPARE does to an instance: CLEAR, then the anti-alias coefficients (R250). -/
def prepareInst (c : Cfg) (aa : Coeffs) (I : Inst) : Inst :=
  { clearInst c I with flt := { (clearInst c I).flt with aa := aa } }

/-- The engine state PREPARE installs for the sample rate `fs` and block size `mb` (R250). -/
def preparedEngine (c : Cfg) (fs : F64) (mb : Word) : Engine where
  prep := true
  fs := fs
  fs32 := to32 c fs
  maxb := mb
  cap := capacityOf fs
  att := timeCoefficient c fs dbl0p001
  rel := timeCoefficient c fs dbl0p050
  mixc := timeCoefficient c fs dbl0p005

/-- PREPARE (R250): the sample rate is checked before the block size. -/
def execPrepare (s : State) : Host.Outcome State Fault Refusal :=
  if !rateLegal s.cfg s.sampleRateOperand then .next (raiseFault .badSampleRate s)
  else if !blockSizeLegal s.cfg s.a2 then .next (raiseFault .badBlockSize s)
  else
    .next { s.mapInst (prepareInst s.cfg (lowpass s.cfg s.sampleRateOperand dbl5000)) with
      eng := preparedEngine s.cfg s.sampleRateOperand s.a2
      err := 0#4 }

/-- RESET (R256): history and ERR are cleared, everything PREPARE installed stays. -/
def execReset (s : State) : Host.Outcome State Fault Refusal :=
  .next { s.mapInst (clearInst s.cfg) with err := 0#4 }

end Sys2Proof.Machine
end

