-- ==== Sys2Proof/Machine/Bbd.lean ====
section
/-! DEFINITION. The BBD artifact model: BBD and BBD_SAMPLE (43_bbd.md). -/

namespace Sys2Proof.Machine

/-- The linear noise amplitude `amp` (R170). -/
def noiseAmplitude (c : Cfg) (delayMs : F32) : F32 :=
  pow10F32 c (fdiv c (fadd c litNeg60 (fmul c lit6 (fdiv c delayMs lit300))) lit20)

/-- One pink-filter state, `a * p + w * b` (R171, R172). -/
def pinkState (c : Cfg) (a b p w : F32) : F32 := fadd c (fmul c a p) (fmul c w b)

/-- The smoothed noise `nz` from the updated pink states (R171, R173). -/
def smoothedNoise (c : Cfg) (p0 p1 p2 prev w amp : F32) : F32 :=
  let pink := fmul c (fadd c (fadd c (fadd c p0 p1) p2) (fmul c w lit0p1848)) lit0p11
  let bl := fadd c (fmul c lit0p8 pink) (fmul c lit0p2 w)
  let sc := fmul c bl amp
  fadd c (fmul c lit0p7 sc) (fmul c lit0p3 prev)

/-- The quantized blend `qb`, with `QL = to32(QUANT_LEVELS)` (R171, R174). -/
def quantizedBlend (c : Cfg) (x : F32) : F32 :=
  let ql := to32 c c.quantLevels
  let q := fdiv c (froundAway (fmul c x ql)) ql
  fadd c (fmul c lit0p95 x) (fmul c lit0p05 q)

/-- The module function BBD for the draw `w` (R171). -/
def bbdWith (c : Cfg) (x delayMs w : F32) (b : Artifact) : Artifact × F32 :=
  let p0 := pinkState c pole0 gain0 b.p0 w
  let p1 := pinkState c pole1 gain1 b.p1 w
  let p2 := pinkState c pole2 gain2 b.p2 w
  let nz := smoothedNoise c p0 p1 p2 b.prev w (noiseAmplitude c delayMs)
  (⟨p0, p1, p2, nz⟩,
    fmul c (tanhF32 c (fmul c lit0p9 (fadd c (quantizedBlend c x) nz))) lit1p1)

/-- BBD on a stage instance, with its one noise draw (R171, R117). -/
def bbdInst (c : Cfg) (ch : Channel) (st : Stage) (x delayMs : F32) (I : Inst) : Inst × F32 :=
  let d := noiseDraw ch st I.noise
  let r := bbdWith c x delayMs d.2 I.bbd
  ({ I with bbd := r.1, noise := d.1 }, r.2)

/-- BBD_SAMPLE (R176). -/
def execBbdSample (ch : Channel) (st : Stage) (s : State) : Host.Outcome State Fault Refusal :=
  .next (instanceCommand ch st [.delayMs] (bbdInst s.cfg ch st s.a0 (s.paramRead st .delayMs)) s)

end Sys2Proof.Machine
end

