-- ==== Sys2Proof/Machine/Companding.lean ====
section
/-! DEFINITION. The compander: COMPRESS and EXPAND (42_compander.md). -/

namespace Sys2Proof.Machine

/-- `ENV(env, x)` (R150): attack when `|x|` is strictly greater than the envelope. -/
def envelope (c : Cfg) (g : Engine) (env x : F32) : F32 :=
  fadd c env (fmul c (if flt env (fabs c x) then g.att else g.rel) (fsub c (fabs c x) env))

/-- The level of an envelope above the threshold in dB, `over` (R151). -/
def levelOver (c : Cfg) (e : F32) : F32 := fsub c (fmul c lit20 (log10F32 c e)) litNeg20

/-- A gain of `gDB` decibels, clamped to [0.1, 3.0] (R151). -/
def gainOfDb (c : Cfg) (gDB : F32) : F32 := fclamp (pow10F32 c (fdiv c gDB lit20)) lit0p1 lit3

/-- `GAIN(e, COMP)` (R151). -/
def compressGain (c : Cfg) (e : F32) : F32 :=
  if flt e lit0p1 then lit1
  else gainOfDb c (fneg c (fmul c (levelOver c e) (fsub c lit1 (fdiv c lit1 lit2))))

/-- `GAIN(e, EXP)` (R151). -/
def expandGain (c : Cfg) (e : F32) : F32 :=
  if flt e lit0p1 then lit1
  else gainOfDb c (fmul c (levelOver c e) (fsub c lit2 lit1))

/-- `COMPRESS_F` (R152): the envelope first, then the gain from the updated envelope. -/
def compressF (c : Cfg) (g : Engine) (x : F32) (I : Inst) : Inst × F32 :=
  ({ I with cmp := { I.cmp with envC := envelope c g I.cmp.envC x } },
    fmul c x (compressGain c (envelope c g I.cmp.envC x)))

/-- `EXPAND_F` (R153). -/
def expandF (c : Cfg) (g : Engine) (x : F32) (I : Inst) : Inst × F32 :=
  ({ I with cmp := { I.cmp with envE := envelope c g I.cmp.envE x } },
    fmul c x (expandGain c (envelope c g I.cmp.envE x)))

/-- COMPRESS (R154). -/
def execCompress (ch : Channel) (st : Stage) (s : State) : Host.Outcome State Fault Refusal :=
  .next (instanceCommand ch st [] (compressF s.cfg s.eng s.a0) s)

/-- EXPAND (R155). -/
def execExpand (ch : Channel) (st : Stage) (s : State) : Host.Outcome State Fault Refusal :=
  .next (instanceCommand ch st [] (expandF s.cfg s.eng s.a0) s)

end Sys2Proof.Machine
end

