-- ==== Sys2Proof/Machine/Delay.lean ====
section
/-! DEFINITION. The interpolated delay buffer: DELAY and DELAY_SAMPLE (41_delay.md). -/

namespace Sys2Proof.Machine

/-- The feedback coefficient `fb` (R130). -/
def feedbackOf (c : Cfg) (fbPct : F32) : F32 := fclamp (fdiv c fbPct lit100) lit0 lit0p95

/-- The delay in samples `dS` (R130). -/
def delaySamples (c : Cfg) (g : Engine) (delayMs : F32) : F32 :=
  fclamp (fmul c (fdiv c delayMs lit1000) g.fs32) lit1 (intToF32 ((g.cap : Int) - 4))

/-- `while r < 0.0f: r <- r + int_to_f32(CAP)` (R131, R132), for at most `fuel` rounds. One suffices wherever R9 states `int_to_f32`; a position still negative after the last round, which only a free `int_to_f32` can leave, is free (notes/assumptions/14.md). -/
def wrapPosition (c : Cfg) (cap : F32) : Nat → F32 → F32
  | 0, r => if flt r lit0 then Config.endlessWrap cap r else r
  | fuel + 1, r => if flt r lit0 then wrapPosition c cap fuel (fadd c r cap) else r

/-- The read position `r` (R131, R132). -/
def readPosition (c : Cfg) (g : Engine) (w : Nat) (delayMs : F32) : F32 :=
  wrapPosition c (intToF32 (g.cap : Int)) (g.cap + 1)
    (fsub c (intToF32 (w : Int)) (delaySamples c g delayMs))

/-- `D[k mod CAP]` (R133). -/
def ringTap (ring : List (Nat × F32)) (cap : Nat) (k : Int) : F32 :=
  cellGet ring (k % (cap : Int)).toNat

/-- The interpolation polynomial (R134), every operator rounded in the order of R131. -/
def interpolate (c : Cfg) (y0 y1 y2 y3 t : F32) : F32 :=
  let c0 := y1
  let c1 := fmul c lit0p5 (fsub c y2 y0)
  let c2 := fsub c (fadd c (fsub c y0 (fmul c lit2p5 y1)) (fmul c lit2 y2)) (fmul c lit0p5 y3)
  let c3 := fadd c (fmul c lit0p5 (fsub c y3 y0)) (fmul c lit1p5 (fsub c y1 y2))
  fadd c (fmul c (fadd c (fmul c (fadd c (fmul c c3 t) c2) t) c1) t) c0

/-- The interpolated read at position `r` (R133, R134). -/
def ringRead (c : Cfg) (ring : List (Nat × F32)) (cap : Nat) (r : F32) : F32 :=
  let fl := ffloor r
  let k := intOfF32 fl
  let t := fsub c r fl
  interpolate c (ringTap ring cap (k - 1)) (ringTap ring cap k) (ringTap ring cap (k + 1))
    (ringTap ring cap (k + 2)) t

/-- The feedback term `fbs` (R135). -/
def feedbackTerm (c : Cfg) (fb out : F32) : F32 :=
  match c.fbOrder with
  | .scaleAfter => fmul c fb (tanhF32 c out)
  | .scaleInside => tanhF32 c (fmul c fb out)

/-- The module function DELAY (R131): the read comes before the write (R136); with CAP = 0 it is the identity (R138). -/
def delay (c : Cfg) (g : Engine) (d : DelayLine) (x delayMs fbPct : F32) : DelayLine × F32 :=
  if g.cap = 0 then (d, x)
  else
    let out := ringRead c d.ring g.cap (readPosition c g d.w delayMs)
    let fbs := feedbackTerm c (feedbackOf c fbPct) out
    (⟨cellSet d.ring d.w (tanhF32 c (fadd c x fbs)), (d.w + 1) % g.cap⟩, out)

/-- DELAY on a stage instance. -/
def delayInst (c : Cfg) (g : Engine) (x delayMs fbPct : F32) (I : Inst) : Inst × F32 :=
  ({ I with dly := (delay c g I.dly x delayMs fbPct).1 }, (delay c g I.dly x delayMs fbPct).2)

/-- DELAY_SAMPLE (R137). -/
def execDelaySample (ch : Channel) (st : Stage) (s : State) : Host.Outcome State Fault Refusal :=
  .next (instanceCommand ch st [.delayMs, .feedbackPct]
    (delayInst s.cfg s.eng s.a0 (s.paramRead st .delayMs) (s.paramRead st .feedbackPct)) s)

end Sys2Proof.Machine
end

