-- ==== Sys2Proof/Machine/Mix.lean ====
section
/-! DEFINITION. The mix stage: MIX and MIX_SAMPLE (45_mix.md). -/

namespace Sys2Proof.Machine

/-- The normalised target `m` (R210). -/
def mixTarget (c : Cfg) (mixPct : F32) : F32 := fdiv c (fclamp mixPct lit0 lit100) lit100

/-- Whether FTZ flushes the product `MIXC * (m - sm)` on the way to target 0, so that the update of R213 leaves a decaying ratio where it is (notes/assumptions/24.md). -/
def decayFlushed (c : Cfg) (g : Engine) (m sm : F32) : Bool :=
  c.ftz && isZero32 m && isSubnormal32 (fmul { c with ftz := false } g.mixc (fsub c m sm))

/-- The smoothed ratio after one call (R211, R213): a call that finds `primed` false starts from the target. Where FTZ stops a ratio decaying to 0, `mixStop` says which text holds: R213 under R9, which keeps it, or corner case (e) of R214, by which it stops at +0.0 (DESIGN CHOICE, notes/assumptions/24.md). -/
def smoothMix (c : Cfg) (g : Engine) (m : F32) (x : MixState) : F32 :=
  let sm := if x.primed then x.sm else m
  if c.mixStop = .zero && decayFlushed c g m sm then lit0
  else fadd c sm (fmul c g.mixc (fsub c m sm))

/-- The crossfade at the ratio `sm` (R212). -/
def crossfade (c : Cfg) (sm dry wet : F32) : F32 :=
  let ang := fmul c sm halfPiF
  fadd c (fmul c dry (cosF32 c ang)) (fmul c wet (sinF32 c ang))

/-- The module function MIX (R213). -/
def mix (c : Cfg) (g : Engine) (dry wet mixPct : F32) (x : MixState) : MixState × F32 :=
  let sm := smoothMix c g (mixTarget c mixPct) x
  (⟨sm, true⟩, crossfade c sm dry wet)

/-- MIX on a stage instance. -/
def mixInst (c : Cfg) (g : Engine) (dry wet mixPct : F32) (I : Inst) : Inst × F32 :=
  ({ I with mix := (mix c g dry wet mixPct I.mix).1 }, (mix c g dry wet mixPct I.mix).2)

/-- MIX_SAMPLE (R214): dry is A0, wet is A1. -/
def execMixSample (ch : Channel) (st : Stage) (s : State) : Host.Outcome State Fault Refusal :=
  .next (instanceCommand ch st [.mixPct] (mixInst s.cfg s.eng s.a0 s.a1 (s.paramRead st .mixPct)) s)

end Sys2Proof.Machine
end

