-- ==== Sys2Proof/Machine/Orchestrator.lean ====
section
/-! DEFINITION. The stage orchestrator and the engine: SOFTCLIP, STAGE_SAMPLE and PROCESS_BLOCK (46_orchestrator.md). -/

namespace Sys2Proof.Machine

/-- SOFTCLIP (R230). -/
def execSoftclip (s : State) : Host.Outcome State Fault Refusal :=
  .next (s.setResult (softclip s.cfg s.a0))

/-- The module function STAGE (R232): compress, delay, BBD artifacts, expand, filter, and the mix of the stage's own input with the filtered signal. -/
def stage (c : Cfg) (g : Engine) (ch : Channel) (st : Stage) (x : F32) (p : StageParams)
    (I : Inst) : Inst × F32 :=
  let r1 := compressF c g x I
  let r2 := delayInst c g r1.2 p.delayMs p.feedbackPct r1.1
  let r3 := bbdInst c ch st r2.2 p.delayMs r2.1
  let r4 := expandF c g r3.2 r3.1
  let r5 := filterInst c g r4.2 p.tonePct r4.1
  mixInst c g x r5.2 p.mixPct r5.1

/-- STAGE_SAMPLE (R233). -/
def execStageSample (ch : Channel) (st : Stage) (s : State) : Host.Outcome State Fault Refusal :=
  .next (instanceCommand ch st allParams (stage s.cfg s.eng ch st s.a0 (s.params st)) s)

/-- What a PROCESS_BLOCK holds for its whole duration: its snapshot of CTRL, BLOCK_LEN and the parameters (R34, R72, R240). -/
structure BlockRun where
  byp : Bool
  casc : Bool
  p1 : StageParams
  p2 : StageParams
  n : Nat
  deriving DecidableEq, Repr

/-- The snapshot PROCESS_BLOCK takes at its start (R72, R240). -/
def State.snapshot (s : State) : BlockRun where
  byp := s.bypass
  casc := s.cascaded
  p1 := s.params .one
  p2 := s.params .two
  n := s.blockLen.toNat

/-- `ENGINE` for one sample of a channel (R234): the channel's two instances after it, and the output. -/
def engineSample (c : Cfg) (g : Engine) (ch : Channel) (b : BlockRun) (x : F32)
    (pair : Inst × Inst) : (Inst × Inst) × F32 :=
  if b.byp then (pair, softclip c x)
  else
    let r1 := stage c g ch .one x b.p1 pair.1
    if !b.casc then ((r1.1, pair.2), softclip c r1.2)
    else
      let r2 := stage c g ch .two r1.2 b.p2 pair.2
      ((r1.1, r2.1), softclip c r2.2)

/-- How many samples of the block are processed before sample `i` of a channel, the left channel first (R77, notes/assumptions/17.md). -/
def samplesBefore (b : BlockRun) (ch : Channel) (i : Nat) : Nat :=
  match ch with
  | .left => i
  | .right => b.n + i

/-- `BUF(ch)[i] <- ENGINE(ch, BUF(ch)[i], ...)` (R240), after the CTRL writes that have arrived (R70). -/
def sampleStep (b : BlockRun) (ch : Channel) (i : Nat) (s : State) : State :=
  let s' := s.controlArrivals (samplesBefore b ch i)
  let r := engineSample s'.cfg s'.eng ch b (s'.bufRead ch i) (s'.inst ch .one, s'.inst ch .two)
  ((s'.setInst ch .one r.1.1).setInst ch .two r.1.2).bufWrite ch i r.2

/-- The samples of one channel from index `i` on, strictly in order, `k` of them (R28, R77). -/
def channelLoop (b : BlockRun) (ch : Channel) : (k i : Nat) → State → State
  | 0, _, s => s
  | k + 1, i, s => channelLoop b ch k (i + 1) (sampleStep b ch i s)

/-- The largest block PROCESS_BLOCK accepts (R240). -/
def State.blockLimit (s : State) : Nat := if s.eng.prep then s.eng.maxb.toNat else s.cfg.bufWords

/-- Whether a parameter register the block uses holds a NaN (R240). An empty block uses none and has no effect: D44, corner case (a) (DEDUCED, notes/assumptions/25.md). -/
def State.blockNaN (s : State) : Bool :=
  s.blockLen != 0#32 && (s.nanIn .one allParams || (s.cascaded && s.nanIn .two allParams))

/-- PROCESS_BLOCK (R240): the block-length check first, the pass-through before PREPARE next (R116), then the NaN check, then the samples. With BLOCK_LEN 0 it is legal and has no effect, whatever the parameters hold (D44, notes/assumptions/25.md). -/
def execProcessBlock (s : State) : Host.Outcome State Fault Refusal :=
  if s.blockLimit < s.blockLen.toNat then .next (raiseFault .badBlockSize s)
  else if !s.eng.prep then .next s
  else if !s.bypass && s.blockNaN then .next (raiseFault .nanParameter s)
  else
    .next (channelLoop s.snapshot .right s.snapshot.n 0
      (channelLoop s.snapshot .left s.snapshot.n 0 s))

end Sys2Proof.Machine
end

