-- ==== Sys2Proof/Machine/Dispatch.lean ====
section
/-! DEFINITION. One arm per command. -/

namespace Sys2Proof.Machine

def exec (i : Instr) (s : State) : Host.Outcome State Fault Refusal :=
  match i with
  | .prepare => Sys2Proof.Machine.execPrepare s
  | .reset => Sys2Proof.Machine.execReset s
  | .processBlock => Sys2Proof.Machine.execProcessBlock s
  | .stageSample ch st => Sys2Proof.Machine.execStageSample ch st s
  | .compress ch st => Sys2Proof.Machine.execCompress ch st s
  | .delaySample ch st => Sys2Proof.Machine.execDelaySample ch st s
  | .bbdSample ch st => Sys2Proof.Machine.execBbdSample ch st s
  | .expand ch st => Sys2Proof.Machine.execExpand ch st s
  | .filterSample ch st => Sys2Proof.Machine.execFilterSample ch st s
  | .mixSample ch st => Sys2Proof.Machine.execMixSample ch st s
  | .softclip => Sys2Proof.Machine.execSoftclip s

end Sys2Proof.Machine
end

