-- ==== Sys2Proof/Machine/Window.lean ====
section
/-! DEFINITION. The host window: the register map (R24), reads and writes with their effects (R62, R65, R66), the start of a command by a write to CMD (R90, R95), and power-on (R283, R300). -/

namespace Sys2Proof.Machine

/-- The size of the host window in bytes (R60). -/
def windowSize : Nat := 0x30000

/-- Whether a bus address is in [BASE, BASE + 0x30000) (R61). -/
def inWindow (c : Cfg) (addr : Nat) : Bool :=
  decide (c.base ≤ addr) && decide (addr < c.base + windowSize)

/-- The CAPACITY register: CAP (R24), free where CAP does not fit its 32 bits (notes/assumptions/23.md). -/
def State.capacityWord (s : State) : Word :=
  if s.eng.cap < 4294967296 then BitVec.ofNat 32 s.eng.cap else Config.capacityBeyond s.eng.cap

/-- The register at an offset below 0x10000 (R24): CMD and reserved offsets read 0 (R66). -/
def State.readReg (s : State) (off : Nat) : Word :=
  match off with
  | 0x004 => s.statusWord
  | 0x008 => s.ctrlWord
  | 0x00C => s.blockLen
  | 0x010 => s.eng.fs.extractLsb' 0 32
  | 0x014 => s.eng.fs.extractLsb' 32 32
  | 0x018 => s.eng.maxb
  | 0x01C => s.capacityWord
  | 0x020 => s.s1.delayMs
  | 0x024 => s.s1.feedbackPct
  | 0x028 => s.s1.mixPct
  | 0x02C => s.s1.tonePct
  | 0x030 => s.s2.delayMs
  | 0x034 => s.s2.feedbackPct
  | 0x038 => s.s2.mixPct
  | 0x03C => s.s2.tonePct
  | 0x040 => s.a0
  | 0x044 => s.a1
  | 0x048 => s.a2
  | 0x04C => s.a3
  | 0x050 => s.a4
  | 0x054 => s.a5
  | 0x060 => s.result
  | _ => 0#32

/-- A write to the register at an offset below 0x10000, CMD excepted (R24, R66): read-only registers and reserved offsets ignore it. -/
def State.writeReg (s : State) (off : Nat) (v : Word) : State :=
  match off with
  | 0x008 => { s with ctrl := ctrlBits v }
  | 0x00C => { s with blockLen := v }
  | 0x020 => { s with s1 := { s.s1 with delayMs := v } }
  | 0x024 => { s with s1 := { s.s1 with feedbackPct := v } }
  | 0x028 => { s with s1 := { s.s1 with mixPct := v } }
  | 0x02C => { s with s1 := { s.s1 with tonePct := v } }
  | 0x030 => { s with s2 := { s.s2 with delayMs := v } }
  | 0x034 => { s with s2 := { s.s2 with feedbackPct := v } }
  | 0x038 => { s with s2 := { s.s2 with mixPct := v } }
  | 0x03C => { s with s2 := { s.s2 with tonePct := v } }
  | 0x040 => { s with a0 := v }
  | 0x044 => { s with a1 := v }
  | 0x048 => { s with a2 := v }
  | 0x04C => { s with a3 := v }
  | 0x050 => { s with a4 := v }
  | 0x054 => { s with a5 := v }
  | _ => s

/-- `MemRead(BASE + off, 4)` (R67): a register, a word of BUF(0) or of BUF(1), or 0 at a reserved offset (R62). -/
def State.windowRead (s : State) (off : Nat) : Word :=
  if off < 0x10000 then s.readReg off
  else if off < 0x20000 then s.bufRead .left ((off - 0x10000) / 4)
  else s.bufRead .right ((off - 0x20000) / 4)

/-- `MemWrite(BASE + off, 4, v)` at any offset but CMD (R66, R67). -/
def State.windowWrite (s : State) (off : Nat) (v : Word) : State :=
  if off < 0x10000 then s.writeReg off v
  else if off < 0x20000 then s.bufWrite .left ((off - 0x10000) / 4) v
  else s.bufWrite .right ((off - 0x20000) / 4) v

/-- The fault a word that is no command raises (R95). -/
def faultOfDecode : DecodeError → FaultCode
  | .illegalOpcode => .illegalOpcode
  | .reservedBits => .reservedBits

/-- A write of `w` to CMD (R95): the word is decoded, the command runs to its end, and the CTRL writes that arrived while it ran are performed (R70). -/
def command (w : Word) (s : State) : Host.Outcome State Fault Refusal :=
  match decode w with
  | .error e => .next (raiseFault (faultOfDecode e) s).endCommand
  | .ok i =>
    match exec i s with
    | .next t => .next t.endCommand
    | .fault r => .fault r
    | .refused r => .refused r

/-- One access at bus address `addr` (R65, R66); `v` is what is written, `none` for a read. -/
def hostAccess (addr bytes : Nat) (v : Option Word) (s : State) : Host.Outcome State Fault Refusal :=
  if !inWindow s.cfg addr then .refused .outsideWindow
  else if !accessAdmitted bytes (addr - s.cfg.base) then .fault .unadmittedAccess
  else
    match v with
    | none => .next { s with reads := s.windowRead (addr - s.cfg.base) :: s.reads }
    | some w => if addr = s.cfg.base then command w s else .next (s.windowWrite (addr - s.cfg.base) w)

/-- Power is lost and comes back (R283, R300): every piece of state at its power-on value. What stands outside the core stays: its configuration, the events to come, the words the host has read, and the noise sources. -/
def powerCycle (s : State) : State :=
  { State.powerOn s.cfg with
    i00 := { Inst.powerOn with noise := s.i00.noise }
    i01 := { Inst.powerOn with noise := s.i01.noise }
    i10 := { Inst.powerOn with noise := s.i10.noise }
    i11 := { Inst.powerOn with noise := s.i11.noise }
    host := s.host
    control := s.control
    reads := s.reads }

/-- One host event performed. -/
def hostEvent (e : HostEvent) (s : State) : Host.Outcome State Fault Refusal :=
  match e with
  | .read addr bytes => hostAccess addr bytes none s
  | .write addr bytes v => hostAccess addr bytes (some v) s
  | .powerCycle => .next (powerCycle s)

/-- One step: a configuration with BUF_WORDS outside 1 to 16384 is refused (I13); with no host event the core does nothing (R283, R300); else the oldest event is performed, completely (R70). -/
def stepHost (s : State) : Host.Outcome State Fault Refusal :=
  if !s.cfg.legal then .refused .illegalConfiguration
  else
    match s.host with
    | [] => .next s
    | e :: rest => hostEvent e { s with host := rest }

/-- The host event that writes a word to CMD. -/
def commandEvent (c : Cfg) (w : Word) : HostEvent := .write c.base 4 w

end Sys2Proof.Machine
end

