-- ==== Sys2Proof/Machine/Step.lean ====
section
/-! DEFINITION. The step of the machine, and the placing of an instruction as the next one it runs. -/

namespace Sys2Proof.Machine

/-- One step: the oldest host event, performed completely (R70). -/
def step (s : State) : Host.Outcome State Fault Refusal := stepHost s

/-- `s` with the write of an opcode-table word to CMD as the very next host event. The core fetches no instructions (R28, R75): a command comes from the host, and this is the host writing it (notes/assumptions/1.md). -/
def State.withFetchWord (s : State) (nbits w : Nat) : State :=
  { s with host := commandEvent s.cfg (tableWord nbits w) :: s.host }

end Sys2Proof.Machine
end

