-- ==== Sys2Proof/Safety.lean ====
section
/-! DEFINITION. What counts as a sound state and a right result, in the terms statements use: invariants of the machine, the value of a floating-point pattern, the fault a command takes, and a block as a function on lists of samples. -/

namespace Sys2Proof.Machine

/-! ## Values of floating-point patterns (R8) -/

/-- The real value of a finite binary32 pattern, from its sign, exponent and fraction fields. -/
def value32 (x : F32) : ℚ :=
  (if x.msb then -1 else 1) *
    (if (x.extractLsb' 23 8).toNat = 0 then ((x.extractLsb' 0 23).toNat : ℚ) / 2 ^ 149
     else (8388608 + ((x.extractLsb' 0 23).toNat : ℚ)) * 2 ^ (x.extractLsb' 23 8).toNat / 2 ^ 150)

/-- The real value of a finite binary64 pattern. -/
def value64 (x : F64) : ℚ :=
  (if x.msb then -1 else 1) *
    (if (x.extractLsb' 52 11).toNat = 0 then ((x.extractLsb' 0 52).toNat : ℚ) / 2 ^ 1074
     else (4503599627370496 + ((x.extractLsb' 0 52).toNat : ℚ)) * 2 ^ (x.extractLsb' 52 11).toNat / 2 ^ 1075)

/-- `r` is the binary32 rounding of the exact value `q` to nearest, ties to even, overflowing to infinity (R9). -/
def Rounds32 (q : ℚ) (r : F32) : Prop :=
  (isFinite32 r = true ∧ |q| < 2 ^ 128 - 2 ^ 103 ∧
    (∀ z, isFinite32 z = true → |q - value32 r| ≤ |q - value32 z|) ∧
    (∀ z, isFinite32 z = true → |q - value32 r| = |q - value32 z| →
      value32 z = value32 r ∨ r.getLsbD 0 = false)) ∨
  (isInf32 r = true ∧ 2 ^ 128 - 2 ^ 103 ≤ |q| ∧ r.msb = decide (q < 0))

/-- `r` is the binary64 rounding of the exact value `q` to nearest, ties to even, overflowing to infinity (R9). -/
def Rounds64 (q : ℚ) (r : F64) : Prop :=
  (isFinite64 r = true ∧ |q| < 2 ^ 1024 - 2 ^ 970 ∧
    (∀ z, isFinite64 z = true → |q - value64 r| ≤ |q - value64 z|) ∧
    (∀ z, isFinite64 z = true → |q - value64 r| = |q - value64 z| →
      value64 z = value64 r ∨ r.getLsbD 0 = false)) ∨
  (isNaN64 r = false ∧ isFinite64 r = false ∧ 2 ^ 1024 - 2 ^ 970 ≤ |q| ∧ r.msb = decide (q < 0))

/-- What FTZ makes of a value: a subnormal becomes the zero of its sign (R9). -/
def flushed (x : F32) : F32 := if isSubnormal32 x then x &&& 0x80000000#32 else x

/-! ## The fault a command takes (R270, R275) -/

/-- The parameter registers a command uses, with their stage (R111, R137, R176, R196, R214, R233). -/
def usedParams : Instr → List (Stage × Param)
  | .prepare => []
  | .reset => []
  | .processBlock => []
  | .stageSample _ st => [(st, .delayMs), (st, .feedbackPct), (st, .mixPct), (st, .tonePct)]
  | .compress _ _ => []
  | .delaySample _ st => [(st, .delayMs), (st, .feedbackPct)]
  | .bbdSample _ st => [(st, .delayMs)]
  | .expand _ _ => []
  | .filterSample _ st => [(st, .tonePct)]
  | .mixSample _ st => [(st, .mixPct)]
  | .softclip => []

/-- Whether one of the named parameter registers holds a NaN. -/
def State.holdsNaN (s : State) (used : List (Stage × Param)) : Bool :=
  used.any fun u => isNaN32 (s.paramReg u.1 u.2)

/-- The parameter registers a block uses: none when bypassed, or when the block is empty (D44, notes/assumptions/25.md); stage 1's in standard mode, both stages' in cascaded mode (R240). -/
def State.blockParams (s : State) : List (Stage × Param) :=
  if s.ctrl.getLsbD 0 = true ∨ s.blockLen = 0#32 then []
  else [(.one, .delayMs), (.one, .feedbackPct), (.one, .mixPct), (.one, .tonePct)] ++
    (if s.ctrl.getLsbD 1 then
      [(.two, .delayMs), (.two, .feedbackPct), (.two, .mixPct), (.two, .tonePct)] else [])

/-- The fault a decoded command takes, if any: its own checks in the order of R275 under the conditions of R270. -/
def faultOf (i : Instr) (s : State) : Option FaultCode :=
  match i with
  | .prepare =>
    if !(isFinite64 s.sampleRateOperand && dlt dbl16000 s.sampleRateOperand &&
        decide (capacityOf s.sampleRateOperand ≤ s.cfg.delayRamWords)) then some .badSampleRate
    else if s.a2.toNat = 0 ∨ s.cfg.bufWords < s.a2.toNat then some .badBlockSize
    else none
  | .processBlock =>
    if (if s.eng.prep then s.eng.maxb.toNat else s.cfg.bufWords) < s.blockLen.toNat then
      some .badBlockSize
    else if s.eng.prep && s.holdsNaN s.blockParams then some .nanParameter
    else none
  | i => if s.eng.prep && s.holdsNaN (usedParams i) then some .nanParameter else none

/-! ## Invariants -/

/-- Whether a window offset is a byte of a sample-buffer word (R62). -/
def bufferByte (c : Cfg) (a : Nat) : Bool :=
  (decide (0x10000 ≤ a) && decide (a < 0x10000 + 4 * c.bufWords)) ||
  (decide (0x20000 ≤ a) && decide (a < 0x20000 + 4 * c.bufWords))

/-- The sample-buffer memory has its canonical form, and reserved offsets hold nothing (R62). -/
def MemorySound (s : State) : Prop :=
  Memory.wf s.mem = true ∧ ∀ a, bufferByte s.cfg a = false → s.readByte a = 0#8

/-- A delay line of capacity `cap`: canonical, nothing stored beyond the ring, every element NaN or in [-1, 1], the write index inside (R30, R32, R63, R139). -/
def RingSound (cap : Nat) (d : DelayLine) : Prop :=
  cellsWf d.ring = true ∧ (∀ k, cap ≤ k → cellGet d.ring k = 0#32) ∧
  (∀ k, isNaN32 (cellGet d.ring k) = true ∨ withinOne (cellGet d.ring k) = true) ∧
  (d.w < cap ∨ (cap = 0 ∧ d.w = 0))

/-- Every delay line is sound for the installed capacity (R32, R255). -/
def RingsSound (s : State) : Prop := ∀ ch st, RingSound s.eng.cap (s.inst ch st).dly

/-- The engine state is either the one of power-on or what one successful PREPARE installs, all of it (R29, R32, R254). -/
def EngineInstalled (s : State) : Prop :=
  (s.eng.prep = false ∧ s.eng = Engine.powerOn) ∨
  (s.eng.prep = true ∧ rateLegal s.cfg s.eng.fs = true ∧ blockSizeLegal s.cfg s.eng.maxb = true ∧
    s.eng = preparedEngine s.cfg s.eng.fs s.eng.maxb)

/-- When prepared, every anti-alias section holds LPF(5000 Hz), and every tone section that has been tuned holds the coefficients of the tone it was last tuned to, which lies in [0, 100] (R191, R192, R195, R254). -/
def FiltersTuned (s : State) : Prop :=
  s.eng.prep = true → ∀ ch st,
    (s.inst ch st).flt.aa = lowpass s.cfg s.eng.fs dbl5000 ∧
    ∀ t, (s.inst ch st).flt.lastTone = some t →
      (s.inst ch st).flt.tn = lowpass s.cfg s.eng.fs (toneCutoff t) ∧
      fle lit0 t = true ∧ fle t lit100 = true

/-- ERR holds a code of R270; the codes 6 to 15 never occur. -/
def ErrLegal (s : State) : Prop := s.err.toNat ≤ 5

/-- `mix.primed` is false only with MIX_INIT = snap (R30). -/
def MixPrimed (s : State) : Prop :=
  s.cfg.mixInit = .zero → ∀ ch st, (s.inst ch st).mix.primed = true

/-! ## The window as words -/

/-- The offsets below 0x10000 to which a write stores (R24), CMD not among them. -/
def writableRegs : List Nat :=
  [0x008, 0x00C, 0x020, 0x024, 0x028, 0x02C, 0x030, 0x034, 0x038, 0x03C,
   0x040, 0x044, 0x048, 0x04C, 0x050, 0x054]

/-- Whether a write at an aligned offset stores its word there (R24, R62, R66). -/
def storesAt (c : Cfg) (off : Nat) : Bool :=
  (decide (off < 0x10000) && writableRegs.contains off) || bufferByte c off

/-- The word a write of `v` leaves: CTRL keeps bits 1:0, everything else all 32 bits (R66). -/
def storedWord (off : Nat) (v : Word) : Word := if off = 0x008 then v &&& 3#32 else v

/-! ## A block as a function on samples (R234, R240) -/

/-- A channel's instances and outputs after its samples, in index order. -/
def runChannel (c : Cfg) (g : Engine) (ch : Channel) (b : BlockRun) :
    List F32 → Inst × Inst → (Inst × Inst) × List F32
  | [], pair => (pair, [])
  | x :: xs, pair =>
    let r := engineSample c g ch b x pair
    let rest := runChannel c g ch b xs r.1
    (rest.1, r.2 :: rest.2)

/-- The first `n` words of a channel's sample buffer. -/
def State.samples (s : State) (ch : Channel) (n : Nat) : List F32 :=
  (List.range n).map (s.bufRead ch)

/-- Whether a window offset is a byte of one of the first `n` words of a sample buffer. -/
def inBlock (n : Nat) (a : Nat) : Prop :=
  ∃ ch, bufBase ch ≤ a ∧ a < bufBase ch + 4 * n

/-- The samples of both channels in the order a schedule names: each entry runs the next sample of its channel (R77). -/
def runSchedule (b : BlockRun) : List Channel → (i j : Nat) → State → State
  | [], _, _, s => s
  | .left :: rest, i, j, s => runSchedule b rest (i + 1) j (sampleStep b .left i s)
  | .right :: rest, i, j, s => runSchedule b rest i (j + 1) (sampleStep b .right j s)

/-- How many noise draws a command that takes no fault makes on an instance: one for each BBD evaluation (R117). -/
def drawsTaken (i : Instr) (s : State) (ch : Channel) (st : Stage) : Nat :=
  if s.eng.prep = false ∨ (faultOf i s).isSome then 0
  else
    match i with
    | .bbdSample ch' st' => if ch' = ch ∧ st' = st then 1 else 0
    | .stageSample ch' st' => if ch' = ch ∧ st' = st then 1 else 0
    | .processBlock =>
      if s.ctrl.getLsbD 0 then 0
      else match st with
        | .one => s.blockLen.toNat
        | .two => if s.ctrl.getLsbD 1 then s.blockLen.toNat else 0
    | _ => 0

/-- Two states that differ at most in CTRL and in the CTRL writes to come. -/
def SameButControl (s t : State) : Prop := t = { s with ctrl := t.ctrl, control := t.control }

end Sys2Proof.Machine
end

