-- ==== Sys2Proof/Certificates/Slice0/Obligations.lean ====
section
/-! DEFINITION. The statements for the provers. -/

section Statements

open Sys2Proof Sys2Proof.Machine

/-- A word written to CMD decodes to a command exactly when that command is well-formed and the word is its encoding: every command with every CH and ST comes back from its word, and no word that decodes differs in any of its 32 bits from the encoding of what it decodes to. (R90, R91, R93, R94, R95) -/
def Obligations.DecodeInvertsEncode : Prop :=
  ∀ (w : Word) (i : Instr), decode w = .ok i ↔ (i.wellFormed = true ∧ w = encode i)

/-- An engine command is decoded from exactly one word; an instance command from exactly the words that match its opcode under the mask 0xFFFFFCFF, with the channel in bit 8 and the stage in bit 9. COMPRESS on the right channel of stage 2 is 0x00000310. (R94) -/
def Obligations.CommandWordsMatch : Prop :=
  (∀ w : Word,
    (decode w = .ok .prepare ↔ w = 0x00000001#32) ∧
    (decode w = .ok .reset ↔ w = 0x00000002#32) ∧
    (decode w = .ok .processBlock ↔ w = 0x00000003#32) ∧
    (decode w = .ok .softclip ↔ w = 0x00000016#32)) ∧
  (∀ (w : Word) (ch : Channel) (st : Stage),
    let fields := w.getLsbD 8 = decide (ch = .right) ∧ w.getLsbD 9 = decide (st = .two)
    (decode w = .ok (.stageSample ch st) ↔ w &&& 0xFFFFFCFF#32 = 0x04#32 ∧ fields) ∧
    (decode w = .ok (.compress ch st) ↔ w &&& 0xFFFFFCFF#32 = 0x10#32 ∧ fields) ∧
    (decode w = .ok (.delaySample ch st) ↔ w &&& 0xFFFFFCFF#32 = 0x11#32 ∧ fields) ∧
    (decode w = .ok (.bbdSample ch st) ↔ w &&& 0xFFFFFCFF#32 = 0x12#32 ∧ fields) ∧
    (decode w = .ok (.expand ch st) ↔ w &&& 0xFFFFFCFF#32 = 0x13#32 ∧ fields) ∧
    (decode w = .ok (.filterSample ch st) ↔ w &&& 0xFFFFFCFF#32 = 0x14#32 ∧ fields) ∧
    (decode w = .ok (.mixSample ch st) ↔ w &&& 0xFFFFFCFF#32 = 0x15#32 ∧ fields)) ∧
  decode 0x00000310#32 = .ok (.compress .right .two)

/-- Words written out from the field layout and the opcode map decode to the commands they stand for, and words with an unknown opcode, a reserved bit, or CH or ST of an engine command are refused by the right check. (R91, R93, R94, R95) -/
def Obligations.WrittenOutWordsDecode : Prop :=
  decode 0x00000001#32 = .ok .prepare ∧ decode 0x00000002#32 = .ok .reset ∧
  decode 0x00000003#32 = .ok .processBlock ∧ decode 0x00000104#32 = .ok (.stageSample .right .one) ∧
  decode 0x00000310#32 = .ok (.compress .right .two) ∧ decode 0x00000211#32 = .ok (.delaySample .left .two) ∧
  decode 0x00000012#32 = .ok (.bbdSample .left .one) ∧ decode 0x00000113#32 = .ok (.expand .right .one) ∧
  decode 0x00000314#32 = .ok (.filterSample .right .two) ∧ decode 0x00000115#32 = .ok (.mixSample .right .one) ∧
  decode 0x00000016#32 = .ok .softclip ∧
  decode 0x00000000#32 = .error .illegalOpcode ∧ decode 0x00000405#32 = .error .illegalOpcode ∧
  decode 0x00000401#32 = .error .reservedBits ∧ decode 0x00000116#32 = .error .reservedBits

/-- For every word written to CMD: an opcode outside the map raises ILLEGAL_OPCODE; else a set bit in 31:10 raises RESERVED_BITS; else CH or ST set on an engine command raises RESERVED_BITS; else the word decodes to the one command it encodes (CH and ST from bits 8 and 9), which runs. A fault changes ERR at most (R272). In every case the CTRL writes that arrived meanwhile are performed at the end: R70 as log entry 2 reads it. (R70, R95, R272) -/
def Obligations.DecodingOrder : Prop :=
  ∀ (w : Word) (s : State),
    let opc := w.extractLsb' 0 8
    let engine := opc = 0x01#8 ∨ opc = 0x02#8 ∨ opc = 0x03#8 ∨ opc = 0x16#8
    let known := engine ∨ opc = 0x04#8 ∨ opc = 0x10#8 ∨ opc = 0x11#8 ∨ opc = 0x12#8 ∨
      opc = 0x13#8 ∨ opc = 0x14#8 ∨ opc = 0x15#8
    (¬ known → command w s = .next (raiseFault .illegalOpcode s).endCommand) ∧
    (known → w.extractLsb' 10 22 ≠ 0#22 →
      command w s = .next (raiseFault .reservedBits s).endCommand) ∧
    (engine → w.extractLsb' 10 22 = 0#22 → w.extractLsb' 8 2 ≠ 0#2 →
      command w s = .next (raiseFault .reservedBits s).endCommand) ∧
    (known → w.extractLsb' 10 22 = 0#22 → (engine → w.extractLsb' 8 2 = 0#2) →
      ∃ i t, decode w = .ok i ∧ encode i = w ∧ exec i s = .next t ∧ command w s = .next t.endCommand)

/-- When the oldest host event writes a word to CMD that decodes to a command, the step is exec of that command on the state without the event, after which the CTRL writes that arrived while it ran are performed (CTRL holds the last of them, none are left). An opcode-table word placed by withFetchWord is run by the very next step in the same way. (R70, R90, R95) -/
def Obligations.StepRunsTheCommand : Prop :=
  (∀ (s : State) (w : Word) (i : Instr) (rest : List HostEvent),
    s.cfg.legal = true → s.host = .write s.cfg.base 4 w :: rest → decode w = .ok i →
    ∃ t, exec i { s with host := rest } = .next t ∧
      step s = .next { t with ctrl := lastControl t.control t.ctrl, control := [] }) ∧
  (∀ (s : State) (nbits w : Nat) (i : Instr),
    s.cfg.legal = true → decodeTableWord nbits w = some i →
    ∃ t, exec i s = .next t ∧
      step (s.withFetchWord nbits w) =
        .next { t with ctrl := lastControl t.control t.ctrl, control := [] })

/-- A step that performs an admitted read of the window answers the word at the offset from BASE, recorded in the log of words read (the model field of log entry 18), and leaves every other piece of state as it was. (R65, R66, R67) -/
def Obligations.HostReadStep : Prop :=
  ∀ (s : State) (addr : Nat) (rest : List HostEvent),
    s.cfg.legal = true → s.host = .read addr 4 :: rest → inWindow s.cfg addr = true →
    (addr - s.cfg.base) % 4 = 0 →
    step s = .next { s with host := rest, reads := s.windowRead (addr - s.cfg.base) :: s.reads }

/-- Each register offset reads as its register (FS_LO, FS_HI, MAX_BLOCK and CAPACITY as views of the engine state, a CAP that does not fit 32 bits as the free value of log entry 23), CMD and every reserved aligned offset of the register window read 0, the sample-buffer offsets read their word, and the offsets beyond the buffers read 0. (R24, R26, R29, R62, R66) -/
def Obligations.RegisterMap : Prop :=
  ∀ s : State, s.cfg.legal = true →
    (∀ p ∈ ([(0x000, 0#32), (0x004, s.statusWord), (0x008, s.ctrlWord), (0x00C, s.blockLen),
        (0x010, s.eng.fs.extractLsb' 0 32), (0x014, s.eng.fs.extractLsb' 32 32),
        (0x018, s.eng.maxb), (0x01C, if s.eng.cap < 2 ^ 32 then BitVec.ofNat 32 s.eng.cap else Config.capacityBeyond s.eng.cap),
        (0x020, s.s1.delayMs), (0x024, s.s1.feedbackPct), (0x028, s.s1.mixPct), (0x02C, s.s1.tonePct),
        (0x030, s.s2.delayMs), (0x034, s.s2.feedbackPct), (0x038, s.s2.mixPct), (0x03C, s.s2.tonePct),
        (0x040, s.a0), (0x044, s.a1), (0x048, s.a2), (0x04C, s.a3), (0x050, s.a4), (0x054, s.a5),
        (0x058, 0#32), (0x05C, 0#32), (0x060, s.result)] : List (Nat × Word)),
      s.windowRead p.1 = p.2) ∧
    (∀ off, 0x064 ≤ off → off < 0x10000 → s.windowRead off = 0#32) ∧
    (∀ i, i < s.cfg.bufWords →
      s.windowRead (0x10000 + 4 * i) = s.bufRead .left i ∧
      s.windowRead (0x20000 + 4 * i) = s.bufRead .right i) ∧
    (∀ i, s.cfg.bufWords ≤ i → i < 0x4000 →
      s.windowRead (0x10000 + 4 * i) = 0#32 ∧ s.windowRead (0x20000 + 4 * i) = 0#32)

/-- STATUS has PREPARED in bit 0, ERR in bits 7:4 and 0 in every other bit; CTRL has its two flags in bits 1:0 and 0 in every other bit. That STATUS is computed from the engine state and ERR is the reading of log entry 19. (R26, R27, R29) -/
def Obligations.StatusAndControlFields : Prop :=
  ∀ s : State,
    s.statusWord.getLsbD 0 = s.eng.prep ∧ s.statusWord.extractLsb' 4 4 = s.err ∧
    s.statusWord.extractLsb' 1 3 = 0#3 ∧ s.statusWord.extractLsb' 8 24 = 0#24 ∧
    s.ctrlWord.getLsbD 0 = s.bypass ∧ s.ctrlWord.getLsbD 1 = s.cascaded ∧
    s.ctrlWord.extractLsb' 2 30 = 0#30

/-- A step that performs an admitted write of the window at an offset other than that of CMD stores through the window and does nothing else: no command runs. (R65, R66, R67, R70) -/
def Obligations.HostWriteStep : Prop :=
  ∀ (s : State) (addr : Nat) (v : Word) (rest : List HostEvent),
    s.cfg.legal = true → s.host = .write addr 4 v :: rest → inWindow s.cfg addr = true →
    (addr - s.cfg.base) % 4 = 0 → addr ≠ s.cfg.base →
    step s = .next (({ s with host := rest } : State).windowWrite (addr - s.cfg.base) v)

/-- After a write of v at an aligned offset other than that of CMD (where a write starts a command instead), an aligned read at the same offset gives v where the offset is a writable register or a sample-buffer word (only bits 1:0 of v for CTRL); every other offset, and a read-only or reserved one written to, reads as before the write. (R24, R62, R66, R71, R76) -/
def Obligations.WriteThenRead : Prop :=
  ∀ (s : State) (off off' : Nat) (v : Word),
    s.cfg.legal = true → Memory.wf s.mem = true →
    off ≠ 0 → off < 0x30000 → off' < 0x30000 → off % 4 = 0 → off' % 4 = 0 →
    (s.windowWrite off v).windowRead off' =
      if off' = off ∧ storesAt s.cfg off = true then storedWord off v else s.windowRead off'

/-- A window write at any offset other than that of CMD (where a write starts a command instead) changes no engine state, no ERR, no RESULT, no stage instance, and none of the configuration, events and logs; a write below the sample buffers changes no byte of memory; a write at an aligned offset that is read-only or reserved changes nothing at all. (R24, R62, R66) -/
def Obligations.WritesTouchOnlyTheirWord : Prop :=
  ∀ (s : State) (off : Nat) (v : Word), off ≠ 0 →
    let t := s.windowWrite off v
    t.cfg = s.cfg ∧ t.eng = s.eng ∧ t.err = s.err ∧ t.result = s.result ∧
    (∀ ch st, t.inst ch st = s.inst ch st) ∧ t.host = s.host ∧ t.control = s.control ∧
    t.reads = s.reads ∧
    (off < 0x10000 → ∀ a, t.readByte a = s.readByte a) ∧
    (off % 4 = 0 → storesAt s.cfg off = false → t = s)

/-- Storing v in word i of a channel puts bits 8k+7 to 8k of v in the byte at offset 0x10000 x (ch + 1) + 4 i + k for k from 0 to 3, leaves every other byte as it was, and the word reads back as v. (R62, R64) -/
def Obligations.BufferBytesLittleEndian : Prop :=
  ∀ (s : State) (ch : Channel) (i : Nat) (v : Word),
    Memory.wf s.mem = true → i < s.cfg.bufWords →
    let at0 := 0x10000 * (chIndex ch + 1) + 4 * i
    (∀ k, k < 4 → (s.bufWrite ch i v).readByte (at0 + k) = v.extractLsb' (8 * k) 8) ∧
    (∀ a, (a < at0 ∨ at0 + 4 ≤ a) → (s.bufWrite ch i v).readByte a = s.readByte a) ∧
    (s.bufWrite ch i v).bufRead ch i = v

/-- A host read or write inside the window has a next state when it is 32 bits wide at an offset that is a multiple of 4, and has no step (the machine stops with the named fault) when it has another width or another offset. (R65) -/
def Obligations.OnlyAlignedWordAccesses : Prop :=
  ∀ (s : State) (addr bytes : Nat) (v : Word) (rest : List HostEvent),
    s.cfg.legal = true → inWindow s.cfg addr = true →
    (s.host = .read addr bytes :: rest ∨ s.host = .write addr bytes v :: rest) →
    (bytes = 4 ∧ (addr - s.cfg.base) % 4 = 0 → ∃ t, step s = .next t) ∧
    (bytes ≠ 4 ∨ (addr - s.cfg.base) % 4 ≠ 0 → step s = .fault .unadmittedAccess)

/-- An access outside [BASE, BASE + 0x30000), which the core does not decode, is refused by name (the form of the refusal is the model's, log entries 4 and 8); so is every step of a configuration with BUF_WORDS outside 1 to 16384 (R6; entry I13 of 93_implementation_defined.md), and a configuration is admitted whatever its other parameters are. (R6, R61) -/
def Obligations.OutsideTheWindowIsRefused : Prop :=
  (∀ (s : State) (addr bytes : Nat) (v : Word) (rest : List HostEvent),
    s.cfg.legal = true → (addr < s.cfg.base ∨ s.cfg.base + 0x30000 ≤ addr) →
    (s.host = .read addr bytes :: rest ∨ s.host = .write addr bytes v :: rest) →
    step s = .refused .outsideWindow) ∧
  (∀ s : State, (s.cfg.bufWords = 0 ∨ 16384 < s.cfg.bufWords) →
    step s = .refused .illegalConfiguration) ∧
  (∀ c : Cfg, c.legal = true ↔ (1 ≤ c.bufWords ∧ c.bufWords ≤ 16384))

/-- With no host event the core keeps all its state (an idle step: log entry 1). A loss of power gives STATUS.ERR, CTRL, BLOCK_LEN, the parameter registers, the engine state and every instance field its power-on value; A0 to A5, RESULT and the buffers are left out, for the spec gives them no value (log entries 5, 6); what stands outside the core (configuration, coming events, words read, noise sources) stays, which is the model's choice of log entries 1, 13 and 18. (R40, R283, R300) -/
def Obligations.IdleAndPowerLoss : Prop :=
  (∀ s : State, s.cfg.legal = true → s.host = [] → step s = .next s) ∧
  (∀ (s : State) (rest : List HostEvent), s.cfg.legal = true → s.host = .powerCycle :: rest →
    ∃ t, step s = .next t ∧ t.host = rest ∧ t.cfg = s.cfg ∧ t.reads = s.reads ∧
      t.err = 0#4 ∧ t.ctrl = 0#2 ∧ t.blockLen = 0#32 ∧ t.eng = Engine.powerOn ∧
      t.s1 = StageParams.powerOn ∧ t.s2 = StageParams.powerOn ∧
      ∀ ch st, t.inst ch st = { Inst.powerOn with noise := (s.inst ch st).noise })

/-- At power-on the core is not prepared and has no fault, CTRL and BLOCK_LEN are 0, the parameter registers hold 100.0, 30.0, 50.0 and 70.0 for both stages, FS, FS32, MAXB, CAP, ATT, REL and MIXC are 0, and every instance field is +0.0 with an empty ring, lastTone UNSET and primed true. A0 to A5, RESULT and the buffer words are left out: the spec gives them no value (log entries 5, 6). (R24, R25, R40, R300) -/
def Obligations.PowerOnValues : Prop :=
  let r := State.reset
  r.statusWord = 0#32 ∧ r.ctrlWord = 0#32 ∧ r.blockLen = 0#32 ∧
  (∀ st, r.stageRegs st = ⟨0x42C80000#32, 0x41F00000#32, 0x42480000#32, 0x428C0000#32⟩) ∧
  r.eng = ⟨false, 0#64, 0#32, 0#32, 0, 0#32, 0#32, 0#32⟩ ∧
  (∀ ch st, (r.inst ch st).dly = ⟨[], 0⟩ ∧ (r.inst ch st).cmp = ⟨0#32, 0#32⟩ ∧
    (r.inst ch st).bbd = ⟨0#32, 0#32, 0#32, 0#32⟩ ∧ (r.inst ch st).mix = ⟨0#32, true⟩ ∧
    (r.inst ch st).flt = ⟨⟨0#32, 0#32, 0#32, 0#32, 0#32⟩, 0#32, 0#32,
      ⟨0#32, 0#32, 0#32, 0#32, 0#32⟩, 0#32, 0#32, none⟩)

/-- A command that meets a fault condition of R270 (the first one in the order of R275) goes on to a next state that differs at most in ERR: ERR takes the code of the fault if it was 0 and keeps its value otherwise. The codes are 1 to 5. A block of length 0 uses no parameter, so a NaN in one is no fault for it: corner case (a) of R240 and decision D44, as log entry 25 reads them. (R111, R240, R251, R270, R272, R275) -/
def Obligations.FaultChangesOnlyErr : Prop :=
  (∀ (i : Instr) (s : State) (code : FaultCode), faultOf i s = some code →
    exec i s = .next { s with err := if s.err = 0#4 then code.number else s.err }) ∧
  FaultCode.illegalOpcode.number = 1#4 ∧ FaultCode.reservedBits.number = 2#4 ∧
  FaultCode.badSampleRate.number = 3#4 ∧ FaultCode.badBlockSize.number = 4#4 ∧
  FaultCode.nanParameter.number = 5#4

/-- A command to which no condition of R270 applies leaves ERR as it was, but for PREPARE and RESET, which clear it; whatever the samples are, no numeric event sets a flag. A block of length 0 is legal and has no effect in any state, NaN parameters or not (corner case (a) of R240, decision D44; log entry 25). (R26, R240, R270, R271, R272) -/
def Obligations.NoFaultWithoutItsCondition : Prop :=
  (∀ (i : Instr) (s : State), faultOf i s = none →
    ∃ t, exec i s = .next t ∧
      t.err = (if i = .prepare ∨ i = .reset then 0#4 else s.err)) ∧
  (∀ s : State, s.blockLen = 0#32 → faultOf .processBlock s = none ∧ exec .processBlock s = .next s)

/-- If ERR is not 0, then after any step it is unchanged, or it is 0 and the step performed a PREPARE that met no fault condition, a RESET, or a loss of power. (R26, R272, R274) -/
def Obligations.ErrIsSticky : Prop :=
  ∀ s t : State, step s = .next t → s.err ≠ 0#4 →
    t.err = s.err ∨
    (t.err = 0#4 ∧ ∃ rest,
      s.host = .powerCycle :: rest ∨
      s.host = .write s.cfg.base 4 0x00000002#32 :: rest ∨
      (s.host = .write s.cfg.base 4 0x00000001#32 :: rest ∧ faultOf .prepare s = none))

/-- If a step changes any part of the engine state (PREPARED, FS, FS32, MAXB, CAP, ATT, REL, MIXC) or any instance's anti-alias coefficients, it performed a PREPARE that met no fault condition, or a loss of power. (R26, R29, R254) -/
def Obligations.EngineChangesOnlyByPrepare : Prop :=
  ∀ s t : State, step s = .next t →
    (t.eng ≠ s.eng ∨ ∃ ch st, (t.inst ch st).flt.aa ≠ (s.inst ch st).flt.aa) →
    ∃ rest, s.host = .powerCycle :: rest ∨
      (s.host = .write s.cfg.base 4 0x00000001#32 :: rest ∧ faultOf .prepare s = none)

/-- Whatever the state, every one of the eleven commands runs to a next state: none stops the core. (R271, R272) -/
def Obligations.EveryCommandCompletes : Prop :=
  ∀ (i : Instr) (s : State), ∃ t, exec i s = .next t

/-- A step whose oldest host event is a loss of power, or a 32-bit aligned read or write anywhere in the window, has a next state; exactly that event is consumed, and the configuration is unchanged. (R21, R68, R70, R272) -/
def Obligations.AdmittedEventsAreServed : Prop :=
  ∀ (s : State) (e : HostEvent) (rest : List HostEvent),
    s.cfg.legal = true → s.host = e :: rest →
    (e = .powerCycle ∨ ∃ addr, inWindow s.cfg addr = true ∧ (addr - s.cfg.base) % 4 = 0 ∧
      (e = .read addr 4 ∨ ∃ v, e = .write addr 4 v)) →
    ∃ t, step s = .next t ∧ t.host = rest ∧ t.cfg = s.cfg

/-- No command writes A0 to A5, the parameter registers, BLOCK_LEN, the configuration, the coming events or the log of reads. Only PREPARE writes the engine state. PREPARE, RESET and PROCESS_BLOCK do not write RESULT. Only PROCESS_BLOCK can find CTRL changed (by writes that arrive inside it) and writes memory, and of memory only the first BLOCK_LEN words of each sample buffer. SOFTCLIP touches no instance. That the other commands leave the CTRL writes that arrive inside them (R70) to the end of the command is the reading of log entry 2. (R22, R23, R25, R27, R29, R70, R240, R250, R256) -/
def Obligations.CommandFrame : Prop :=
  ∀ (i : Instr) (s t : State), exec i s = .next t →
    t.cfg = s.cfg ∧ t.blockLen = s.blockLen ∧ t.s1 = s.s1 ∧ t.s2 = s.s2 ∧
    t.a0 = s.a0 ∧ t.a1 = s.a1 ∧ t.a2 = s.a2 ∧ t.a3 = s.a3 ∧ t.a4 = s.a4 ∧ t.a5 = s.a5 ∧
    t.host = s.host ∧ t.reads = s.reads ∧
    (i ≠ .prepare → t.eng = s.eng) ∧
    (i = .prepare ∨ i = .reset ∨ i = .processBlock → t.result = s.result) ∧
    (i ≠ .processBlock → t.ctrl = s.ctrl ∧ t.control = s.control ∧
      ∀ a, t.readByte a = s.readByte a) ∧
    (i = .processBlock → Memory.wf s.mem = true →
      ∀ a, ¬ inBlock s.blockLen.toNat a → t.readByte a = s.readByte a) ∧
    (i = .softclip → ∀ ch st, t.inst ch st = s.inst ch st)

/-- An instance command leaves the other three instances as they are. On its own instance COMPRESS changes envC only, EXPAND envE only, DELAY_SAMPLE the delay line only, BBD_SAMPLE the artifact state (and the noise source) only, FILTER_SAMPLE the filter state but not the anti-alias coefficients, MIX_SAMPLE the mix state only, and STAGE_SAMPLE keeps the anti-alias coefficients. (R14, R31, R93, R177, R191) -/
def Obligations.InstanceUnitFrame : Prop :=
  ∀ (ch : Channel) (st : Stage) (s t : State),
    (∀ i ∈ [Instr.stageSample ch st, .compress ch st, .delaySample ch st, .bbdSample ch st,
        .expand ch st, .filterSample ch st, .mixSample ch st],
      exec i s = .next t → ∀ ch' st', ¬ (ch' = ch ∧ st' = st) → t.inst ch' st' = s.inst ch' st') ∧
    (let I := s.inst ch st
     let J := t.inst ch st
     (exec (.compress ch st) s = .next t → J = { I with cmp := { I.cmp with envC := J.cmp.envC } }) ∧
     (exec (.expand ch st) s = .next t → J = { I with cmp := { I.cmp with envE := J.cmp.envE } }) ∧
     (exec (.delaySample ch st) s = .next t → J = { I with dly := J.dly }) ∧
     (exec (.bbdSample ch st) s = .next t → J = { I with bbd := J.bbd, noise := J.noise }) ∧
     (exec (.filterSample ch st) s = .next t → J = { I with flt := { J.flt with aa := I.flt.aa } }) ∧
     (exec (.mixSample ch st) s = .next t → J = { I with mix := J.mix }) ∧
     (exec (.stageSample ch st) s = .next t → J.flt.aa = I.flt.aa))

/-- Two states that agree on the configuration, the engine state, the parameter registers of the command's stage, A0 (and A1, for MIX_SAMPLE) and the command's own instance give the same RESULT and the same new instance, whatever CTRL, the other registers, the buffers and the other instances hold. (R31, R92, R96, R281) -/
def Obligations.InstanceCommandsReadTheirOwn : Prop :=
  ∀ (ch : Channel) (st : Stage) (i : Instr),
    i ∈ [Instr.stageSample ch st, .compress ch st, .delaySample ch st, .bbdSample ch st,
      .expand ch st, .filterSample ch st, .mixSample ch st] →
    ∀ s s' t t' : State, s.cfg = s'.cfg → s.eng = s'.eng → s.stageRegs st = s'.stageRegs st →
      s.a0 = s'.a0 → (i = .mixSample ch st → s.a1 = s'.a1) → s.inst ch st = s'.inst ch st →
      faultOf i s = none → exec i s = .next t → exec i s' = .next t' →
      t.result = t'.result ∧ t.inst ch st = t'.inst ch st

/-- When no PREPARE has succeeded, every instance command writes A0 to RESULT and changes nothing else (so no instance, and no noise draw); PROCESS_BLOCK with a legal block length changes nothing; SOFTCLIP computes its result whether or not the core is prepared. (R116) -/
def Obligations.PassThroughBeforePrepare : Prop :=
  (∀ s : State, s.eng.prep = false →
    (∀ ch st, ∀ i ∈ [Instr.stageSample ch st, .compress ch st, .delaySample ch st,
        .bbdSample ch st, .expand ch st, .filterSample ch st, .mixSample ch st],
      exec i s = .next { s with result := s.a0 }) ∧
    (s.blockLen.toNat ≤ s.cfg.bufWords → exec .processBlock s = .next s)) ∧
  (∀ s : State, exec .softclip s = .next { s with result := tanhF32 s.cfg s.a0 })

/-- On a prepared core COMPRESS and EXPAND have exactly these next states: the follower moves toward |x| by the attack coefficient when |x| is strictly above it and by the release coefficient otherwise; the gain is computed from the new envelope by the law of R151 (1 below 0.1, else in dB by the 2:1 ratio, clamped to [0.1, 3.0]); RESULT is x times the gain; nothing else changes. (R150, R152, R153) -/
def Obligations.CompanderResults : Prop :=
  ∀ (ch : Channel) (st : Stage) (s : State), s.eng.prep = true →
    let c := s.cfg
    let I := s.inst ch st
    let x := s.a0
    let env := fun e : F32 =>
      fadd c e (fmul c (if flt e (fabs c x) then s.eng.att else s.eng.rel) (fsub c (fabs c x) e))
    let above := fun e : F32 => fsub c (fmul c lit20 (log10F32 c e)) litNeg20
    let gain := fun (e gDB : F32) =>
      if flt e lit0p1 then lit1 else fclamp (pow10F32 c (fdiv c gDB lit20)) lit0p1 lit3
    let eC := env I.cmp.envC
    let gC := gain eC (fneg c (fmul c (above eC) (fsub c lit1 (fdiv c lit1 lit2))))
    let eE := env I.cmp.envE
    let gE := gain eE (fmul c (above eE) (fsub c lit2 lit1))
    exec (.compress ch st) s = .next ((s.setInst ch st { I with cmp := { I.cmp with envC := eC } }).setResult
      (fmul c x gC)) ∧
    exec (.expand ch st) s = .next ((s.setInst ch st { I with cmp := { I.cmp with envE := eE } }).setResult
      (fmul c x gE))

/-- On a prepared core with parameters that are no NaN, DELAY_SAMPLE has exactly this next state: the loop of R131 brings the position w - dS to r (for sound rings and a CAP below 2^24, which R9 needs for int_to_f32, by adding CAP at most once, and 0 <= r <= CAP), the four taps are interpolated by the polynomial of R134, RESULT is the interpolated value, the ring receives tanh(x + feedback) at the old write index, and the index advances modulo CAP. Nothing else changes. (R130, R131, R132, R133, R134, R135, R136, R137) -/
def Obligations.DelayResult : Prop :=
  ∀ (ch : Channel) (st : Stage) (s : State), EngineInstalled s → s.eng.prep = true →
    isNaN32 (s.paramReg st .delayMs) = false → isNaN32 (s.paramReg st .feedbackPct) = false →
    let c := s.cfg
    let I := s.inst ch st
    let cap := intToF32 (s.eng.cap : Int)
    let delayMs := fclamp (s.paramReg st .delayMs) lit20 lit300
    let fbPct := fclamp (s.paramReg st .feedbackPct) lit0 lit95
    let fb := fclamp (fdiv c fbPct lit100) lit0 lit0p95
    let dS := fclamp (fmul c (fdiv c delayMs lit1000) s.eng.fs32) lit1 (intToF32 ((s.eng.cap : Int) - 4))
    let r0 := fsub c (intToF32 (I.dly.w : Int)) dS
    let r := readPosition c s.eng I.dly.w delayMs
    let t := fsub c r (ffloor r)
    let y := fun j : Int => cellGet I.dly.ring ((intOfF32 (ffloor r) + j) % (s.eng.cap : Int)).toNat
    let c1 := fmul c lit0p5 (fsub c (y 1) (y (-1)))
    let c2 := fsub c (fadd c (fsub c (y (-1)) (fmul c lit2p5 (y 0))) (fmul c lit2 (y 1)))
      (fmul c lit0p5 (y 2))
    let c3 := fadd c (fmul c lit0p5 (fsub c (y 2) (y (-1)))) (fmul c lit1p5 (fsub c (y 0) (y 1)))
    let out := fadd c (fmul c (fadd c (fmul c (fadd c (fmul c c3 t) c2) t) c1) t) (y 0)
    let fbs := if c.fbOrder = .scaleAfter then fmul c fb (tanhF32 c out) else tanhF32 c (fmul c fb out)
    (RingsSound s → s.eng.cap < 2 ^ 24 →
      r = (if flt r0 lit0 then fadd c r0 cap else r0) ∧ fle lit0 r = true ∧ fle r cap = true) ∧
    exec (.delaySample ch st) s = .next ((s.setInst ch st { I with dly :=
        ⟨cellSet I.dly.ring I.dly.w (tanhF32 c (fadd c s.a0 fbs)), (I.dly.w + 1) % s.eng.cap⟩ }).setResult out)

/-- On a prepared core with a delay parameter that is no NaN, BBD_SAMPLE has exactly this next state: one noise draw w, the three pink states a p + w b, the pink sum scaled, blended with white, scaled by the noise-floor amplitude and smoothed with the previous value, the input blended with its quantized value, and RESULT = tanh(0.9 (qb + nz)) x 1.1. Nothing else changes. (R171) -/
def Obligations.BbdResult : Prop :=
  ∀ (ch : Channel) (st : Stage) (s : State), s.eng.prep = true →
    isNaN32 (s.paramReg st .delayMs) = false →
    let c := s.cfg
    let I := s.inst ch st
    let x := s.a0
    let delayMs := fclamp (s.paramReg st .delayMs) lit20 lit300
    let amp := pow10F32 c (fdiv c (fadd c litNeg60 (fmul c lit6 (fdiv c delayMs lit300))) lit20)
    let draw := noiseDraw ch st I.noise
    let w := draw.2
    let p0 := fadd c (fmul c pole0 I.bbd.p0) (fmul c w gain0)
    let p1 := fadd c (fmul c pole1 I.bbd.p1) (fmul c w gain1)
    let p2 := fadd c (fmul c pole2 I.bbd.p2) (fmul c w gain2)
    let pink := fmul c (fadd c (fadd c (fadd c p0 p1) p2) (fmul c w lit0p1848)) lit0p11
    let bl := fadd c (fmul c lit0p8 pink) (fmul c lit0p2 w)
    let nz := fadd c (fmul c lit0p7 (fmul c bl amp)) (fmul c lit0p3 I.bbd.prev)
    let ql := to32 c c.quantLevels
    let q := fdiv c (froundAway (fmul c x ql)) ql
    let qb := fadd c (fmul c lit0p95 x) (fmul c lit0p05 q)
    exec (.bbdSample ch st) s =
      .next ((s.setInst ch st { I with bbd := ⟨p0, p1, p2, nz⟩, noise := draw.1 }).setResult
        (fmul c (tanhF32 c (fmul c lit0p9 (fadd c qb nz))) lit1p1))

/-- On a prepared core with a tone parameter that is no NaN, FILTER_SAMPLE has exactly this next state: the tone coefficients and lastTone are recomputed by LPF (R191) at the cutoff of R195 when lastTone is UNSET or differs from the clamped tone by more than 0.1, and kept otherwise; the sample goes through the anti-alias section and then the tone section, each in transposed direct form II; RESULT is the second output. Nothing else changes. (R193, R194) -/
def Obligations.FilterResult : Prop :=
  ∀ (ch : Channel) (st : Stage) (s : State), s.eng.prep = true →
    isNaN32 (s.paramReg st .tonePct) = false →
    let c := s.cfg
    let I := s.inst ch st
    let f := I.flt
    let x := s.a0
    let lpf := fun fc : F64 =>
      let w0 := ddiv (dmul (dmul dbl2 piD) fc) s.eng.fs
      let alpha := ddiv (sinF64 c w0) (dmul dbl2 dbl0p707)
      let a0 := dadd dbl1 alpha
      let b0 := to32 c (ddiv (ddiv (dsub dbl1 (cosF64 c w0)) dbl2) a0)
      (⟨b0, to32 c (ddiv (dsub dbl1 (cosF64 c w0)) a0), b0,
        to32 c (ddiv (dmul dblNeg2 (cosF64 c w0)) a0), to32 c (ddiv (dsub dbl1 alpha) a0)⟩ : Coeffs)
    let tone := fclamp (fclamp (s.paramReg st .tonePct) lit0 lit100) lit0 lit100
    let again := match f.lastTone with
      | none => true
      | some last => flt lit0p1 (fabs c (fsub c tone last))
    let tn := if again then lpf (dadd dbl3000 (dmul (ddiv (to64 tone) dbl100) dbl5000)) else f.tn
    let out := fun (k : Coeffs) (s1 v : F32) => fadd c (fmul c k.b0 v) s1
    let next1 := fun (k : Coeffs) (s1 s2 v : F32) =>
      fadd c (fsub c (fmul c k.b1 v) (fmul c k.a1 (out k s1 v))) s2
    let next2 := fun (k : Coeffs) (s1 v : F32) => fsub c (fmul c k.b2 v) (fmul c k.a2 (out k s1 v))
    let u := out f.aa f.aaS1 x
    exec (.filterSample ch st) s = .next ((s.setInst ch st { I with flt :=
        { aa := f.aa, aaS1 := next1 f.aa f.aaS1 f.aaS2 x, aaS2 := next2 f.aa f.aaS1 x,
          tn := tn, tnS1 := next1 tn f.tnS1 f.tnS2 u, tnS2 := next2 tn f.tnS1 u,
          lastTone := if again then some tone else f.lastTone } }).setResult (out tn f.tnS1 u))

/-- On a prepared core with a mix parameter that is no NaN, MIX_SAMPLE has exactly this next state: the ratio starts from the target if it was not primed, moves toward the target by MIXC, and RESULT is dry x cos + wet x sin of the new ratio times HALF_PI_F, dry from A0 and wet from A1. Where FTZ flushes the product on the way to target 0, the ratio stays (R213) or is +0.0 (R214 corner case (e)), as the parameter mixStop of log entry 24, the model's own, says; with FTZ false it is always that of R213. Nothing else changes. (R210, R211, R213, R214) -/
def Obligations.MixResult : Prop :=
  ∀ (ch : Channel) (st : Stage) (s : State), s.eng.prep = true →
    isNaN32 (s.paramReg st .mixPct) = false →
    let c := s.cfg
    let I := s.inst ch st
    let m := fdiv c (fclamp (fclamp (s.paramReg st .mixPct) lit0 lit100) lit0 lit100) lit100
    let sm0 := if I.mix.primed then I.mix.sm else m
    let flushes := c.ftz = true ∧ isZero32 m = true ∧
      isSubnormal32 (fmul { c with ftz := false } s.eng.mixc (fsub c m sm0)) = true
    let sm := if flushes ∧ c.mixStop = .zero then lit0 else fadd c sm0 (fmul c s.eng.mixc (fsub c m sm0))
    let ang := fmul c sm 0x3FC90FDB#32
    exec (.mixSample ch st) s = .next ((s.setInst ch st { I with mix := ⟨sm, true⟩ }).setResult
      (fadd c (fmul c s.a0 (cosF32 c ang)) (fmul c s.a1 (sinF32 c ang))))

/-- On a prepared core with stage parameters that are no NaN, STAGE_SAMPLE has exactly this next state: compress, delay, BBD artifacts, expand, filter run one after the other on the one instance, each on the output of the one before, and the mix blends the stage input (dry) with the filtered signal (wet); RESULT is the mix output, not soft-clipped. Nothing else changes, whatever CTRL holds. (R232) -/
def Obligations.StageResult : Prop :=
  ∀ (ch : Channel) (st : Stage) (s : State), s.eng.prep = true →
    (∀ p : Param, isNaN32 (s.paramReg st p) = false) →
    let c := s.cfg
    let g := s.eng
    let P := fun p : Param => fclamp (s.paramReg st p) (paramLo p) (paramHi p)
    let r1 := compressF c g s.a0 (s.inst ch st)
    let r2 := delayInst c g r1.2 (P .delayMs) (P .feedbackPct) r1.1
    let r3 := bbdInst c ch st r2.2 (P .delayMs) r2.1
    let r4 := expandF c g r3.2 r3.1
    let r5 := filterInst c g r4.2 (P .tonePct) r4.1
    let r6 := mixInst c g s.a0 r5.2 (P .mixPct) r5.1
    exec (.stageSample ch st) s = .next ((s.setInst ch st r6.1).setResult r6.2)

/-- In every state SOFTCLIP writes tanh_f32(A0) to RESULT and changes nothing else; for an operand that is no NaN the result is finite and of magnitude at most 1. (R114) -/
def Obligations.SoftclipResult : Prop :=
  ∀ s : State, exec .softclip s = .next { s with result := tanhF32 s.cfg s.a0 } ∧
    (isNaN32 s.a0 = false →
      isFinite32 (tanhF32 s.cfg s.a0) = true ∧ |value32 (tanhF32 s.cfg s.a0)| ≤ 1)

/-- A PREPARE that meets no fault condition has exactly this next state: the operands {A1, A0} and A2 become FS and MAXB, FS32, CAP and the three time coefficients are computed from FS, PREPARED is set and ERR cleared; every instance is cleared, its anti-alias coefficients become LPF(5000), its tone coefficients (and noise source) stay. Nothing else changes. (R112, R191, R250, R252, R253) -/
def Obligations.PrepareResult : Prop :=
  ∀ s : State, faultOf .prepare s = none →
    let c := s.cfg
    let fs : F64 := s.a1 ++ s.a0
    let tc := fun T : F64 => to32 c (dsub dbl1 (expF64 c (ddiv dblNeg1 (dmul T fs))))
    let w0 := ddiv (dmul (dmul dbl2 piD) dbl5000) fs
    let alpha := ddiv (sinF64 c w0) (dmul dbl2 dbl0p707)
    let a0 := dadd dbl1 alpha
    let b0 := to32 c (ddiv (ddiv (dsub dbl1 (cosF64 c w0)) dbl2) a0)
    let aa : Coeffs := ⟨b0, to32 c (ddiv (dsub dbl1 (cosF64 c w0)) a0), b0,
      to32 c (ddiv (dmul dblNeg2 (cosF64 c w0)) a0), to32 c (ddiv (dsub dbl1 alpha) a0)⟩
    let fresh := fun I : Inst => (⟨⟨[], 0⟩, ⟨0#32, 0#32⟩, ⟨0#32, 0#32, 0#32, 0#32⟩,
      ⟨aa, 0#32, 0#32, I.flt.tn, 0#32, 0#32, none⟩, ⟨0#32, decide (c.mixInit = .zero)⟩, I.noise⟩ : Inst)
    exec .prepare s = .next { s with
      eng := ⟨true, fs, to32 c fs, s.a2, capacityOf fs, tc dbl0p001, tc dbl0p050, tc dbl0p005⟩
      err := 0#4
      i00 := fresh s.i00, i01 := fresh s.i01, i10 := fresh s.i10, i11 := fresh s.i11 }

/-- In every state RESET has exactly this next state: in every instance the ring is all +0.0 with write index 0, both envelopes, the artifact state, the section states and the mix ratio are +0.0, lastTone is UNSET, primed is true exactly when MIX_INIT is zero, and the coefficients of both sections stay; ERR is 0. Nothing else changes, and a second RESET right after it changes nothing. (R253, R256) -/
def Obligations.ResetResult : Prop :=
  ∀ s : State,
    let fresh := fun I : Inst => (⟨⟨[], 0⟩, ⟨0#32, 0#32⟩, ⟨0#32, 0#32, 0#32, 0#32⟩,
      ⟨I.flt.aa, 0#32, 0#32, I.flt.tn, 0#32, 0#32, none⟩, ⟨0#32, decide (s.cfg.mixInit = .zero)⟩,
      I.noise⟩ : Inst)
    let t := { s with err := 0#4, i00 := fresh s.i00, i01 := fresh s.i01, i10 := fresh s.i10,
                      i11 := fresh s.i11 }
    exec .reset s = .next t ∧ exec .reset t = .next t

/-- On a prepared core whose engine state and anti-alias coefficients are those a PREPARE installed, with the installed sample rate and block size standing in A0 to A2, PREPARE and RESET lead to the same state. (R250, R256, R257) -/
def Obligations.ResetActsAsReprepare : Prop :=
  ∀ s : State, EngineInstalled s → FiltersTuned s → s.eng.prep = true →
    s.a1 ++ s.a0 = s.eng.fs → s.a2 = s.eng.maxb →
    ∃ t, exec .prepare s = .next t ∧ exec .reset s = .next t

/-- A prepared PROCESS_BLOCK that meets no fault condition goes on to a state in which, for each channel, the first BLOCK_LEN buffer words and the channel's two instances are exactly what ENGINE makes of that channel's old words and instances, sample after sample, with the parameters and CTRL as they stood at the start (whatever CTRL writes arrive inside). Every other byte of memory, ERR, RESULT, the engine state and every register but CTRL are unchanged. (R28, R62, R72, R77, R234, R239, R240) -/
def Obligations.BlockRunsBothChannels : Prop :=
  ∀ s : State, s.cfg.legal = true → EngineInstalled s → Memory.wf s.mem = true →
    s.eng.prep = true → faultOf .processBlock s = none →
    let n := s.blockLen.toNat
    let b : BlockRun := ⟨s.ctrl.getLsbD 0, s.ctrl.getLsbD 1, s.params .one, s.params .two, n⟩
    ∃ t, exec .processBlock s = .next t ∧
      (∀ ch, let r := runChannel s.cfg s.eng ch b (s.samples ch n) (s.inst ch .one, s.inst ch .two)
        t.inst ch .one = r.1.1 ∧ t.inst ch .two = r.1.2 ∧ t.samples ch n = r.2) ∧
      (∀ a, ¬ inBlock n a → t.readByte a = s.readByte a) ∧
      t.err = s.err ∧ t.result = s.result ∧ t.eng = s.eng ∧ t.cfg = s.cfg ∧
      t.blockLen = s.blockLen ∧ t.s1 = s.s1 ∧ t.s2 = s.s2 ∧ t.a0 = s.a0 ∧ t.a1 = s.a1 ∧
      t.a2 = s.a2 ∧ t.a3 = s.a3 ∧ t.a4 = s.a4 ∧ t.a5 = s.a5

/-- Bypassed, the output is the soft clip of the sample and the channel's instances stay; in standard mode it is the soft clip of stage 1's output and stage 2 stays; in cascaded mode stage 2 runs on stage 1's unclipped output with its own parameters and the soft clip is applied once, at the end. (R234, R235) -/
def Obligations.EngineSampleCases : Prop :=
  ∀ (c : Cfg) (g : Engine) (ch : Channel) (b : BlockRun) (x : F32) (I1 I2 : Inst),
    let r1 := stage c g ch .one x b.p1 I1
    let r2 := stage c g ch .two r1.2 b.p2 I2
    (b.byp = true → engineSample c g ch b x (I1, I2) = ((I1, I2), tanhF32 c x)) ∧
    (b.byp = false → b.casc = false →
      engineSample c g ch b x (I1, I2) = ((r1.1, I2), tanhF32 c r1.2)) ∧
    (b.byp = false → b.casc = true →
      engineSample c g ch b x (I1, I2) = ((r1.1, r2.1), tanhF32 c r2.2))

/-- On a prepared core with BYPASS set when the block starts (MODE and the parameters, NaN or not, whatever they hold, and whatever CTRL writes arrive inside) and a legal block length, PROCESS_BLOCK replaces each of the first BLOCK_LEN words of each channel by tanh_f32 of itself, changes no other byte and no instance, and takes no noise draw. (R236) -/
def Obligations.BypassedBlock : Prop :=
  ∀ s : State, s.cfg.legal = true → EngineInstalled s → Memory.wf s.mem = true →
    s.eng.prep = true → s.ctrl.getLsbD 0 = true → s.blockLen.toNat ≤ s.eng.maxb.toNat →
    ∃ t, exec .processBlock s = .next t ∧
      (∀ ch st, t.inst ch st = s.inst ch st) ∧
      (∀ ch i, i < s.blockLen.toNat → t.bufRead ch i = tanhF32 s.cfg (s.bufRead ch i)) ∧
      (∀ a, ¬ inBlock s.blockLen.toNat a → t.readByte a = s.readByte a) ∧ t.err = s.err

/-- When MODE is 0 at the start of a PROCESS_BLOCK, both channels' stage-2 instances are after it what they were before, whatever else the block does. (R235, R238) -/
def Obligations.StandardModeFreezesStageTwo : Prop :=
  ∀ s t : State, exec .processBlock s = .next t → s.ctrl.getLsbD 1 = false →
    ∀ ch, t.inst ch .two = s.inst ch .two

/-- After a prepared PROCESS_BLOCK that meets no fault condition, each of the first BLOCK_LEN words of each channel is a NaN or has magnitude at most 1, whatever the inputs, parameters and histories were. (R114, R139, R241) -/
def Obligations.BlockOutputsBounded : Prop :=
  ∀ s t : State, s.cfg.legal = true → EngineInstalled s → Memory.wf s.mem = true →
    s.eng.prep = true → faultOf .processBlock s = none → exec .processBlock s = .next t →
    ∀ ch i, i < s.blockLen.toNat →
      isNaN32 (t.bufRead ch i) = true ∨
      (isFinite32 (t.bufRead ch i) = true ∧ |value32 (t.bufRead ch i)| ≤ 1)

/-- Two runs of PROCESS_BLOCK from states that differ only in the CTRL writes that arrive while it runs end in states that differ only in CTRL; and at the end of the command CTRL holds bits 1:0 of the last write, or its old value if none arrived. (R27, R70, R72) -/
def Obligations.ControlWritesMissTheBlock : Prop :=
  ∀ (s t t' : State) (l : List (Nat × Word)),
    exec .processBlock s = .next t → exec .processBlock { s with control := l } = .next t' →
    SameButControl t t' ∧
    t'.endCommand.ctrl = (match l.getLast? with
      | none => s.ctrl
      | some w => w.2.extractLsb' 0 2)

/-- Take any order of processing in which each channel runs its BLOCK_LEN samples in index order and the channels alternate in any way: with no CTRL write arriving meanwhile, a prepared PROCESS_BLOCK that meets no fault condition ends in exactly the state that order ends in. That the model itself runs the left channel first (log entry 17) can thus not be seen. (R31, R77, R239, R281) -/
def Obligations.AnyInterleaving : Prop :=
  ∀ (s : State) (order : List Channel), s.cfg.legal = true → Memory.wf s.mem = true →
    s.control = [] → s.eng.prep = true → faultOf .processBlock s = none →
    order.count .left = s.blockLen.toNat → order.count .right = s.blockLen.toNat →
    exec .processBlock s = .next (runSchedule s.snapshot order 0 0 s)

/-- A draw is no NaN and has magnitude at most 1, and a listed draw in that range is the one taken. Every command takes on every instance exactly as many draws as it evaluates BBD there: one for BBD_SAMPLE and STAGE_SAMPLE on their instance, BLOCK_LEN for a block on each stage-1 instance (and in cascaded mode on each stage-2 instance), none when bypassed, before PREPARE, on a fault, or elsewhere. The draws stand in the model fields of log entry 13. (R117, R171, R236, R238, R272) -/
def Obligations.NoiseDrawsCounted : Prop :=
  (∀ (ch : Channel) (st : Stage) (n : Noise),
    isFinite32 (noiseDraw ch st n).2 = true ∧ |value32 (noiseDraw ch st n).2| ≤ 1 ∧
    ∀ w rest, n.queue = w :: rest → fle 0xBF800000#32 w = true → fle w lit1 = true →
      (noiseDraw ch st n).2 = w ∧ (noiseDraw ch st n).1.queue = rest) ∧
  (∀ (i : Instr) (s t : State), exec i s = .next t → ∀ ch st,
    (t.inst ch st).noise.taken = (s.inst ch st).noise.taken + drawsTaken i s ch st)

/-- For finite operands (of binary32 with FTZ false, of binary64 always), the sum, difference, product and quotient (by a non-zero value) are the exact rational results rounded once to the format of the operands, to nearest with ties to even and overflow to infinity; an exact zero sum is +0 unless both operands are negative, and a product or quotient has the exclusive-or of the signs. The binary64 comparison is that of the values. (R8, R9) -/
def Obligations.ArithmeticRoundsToNearest : Prop :=
  (∀ (c : Cfg) (a b : F32), c.ftz = false → isFinite32 a = true → isFinite32 b = true →
    Rounds32 (value32 a + value32 b) (fadd c a b) ∧
    Rounds32 (value32 a - value32 b) (fsub c a b) ∧
    Rounds32 (value32 a * value32 b) (fmul c a b) ∧
    (isZero32 b = false → Rounds32 (value32 a / value32 b) (fdiv c a b)) ∧
    (value32 a + value32 b = 0 → (fadd c a b).msb = (a.msb && b.msb)) ∧
    (value32 a - value32 b = 0 → (fsub c a b).msb = (a.msb && !b.msb)) ∧
    (fmul c a b).msb = (a.msb != b.msb) ∧
    (isZero32 b = false → (fdiv c a b).msb = (a.msb != b.msb))) ∧
  (∀ a b : F64, isFinite64 a = true → isFinite64 b = true →
    Rounds64 (value64 a + value64 b) (dadd a b) ∧
    Rounds64 (value64 a - value64 b) (dsub a b) ∧
    Rounds64 (value64 a * value64 b) (dmul a b) ∧
    (value64 b ≠ 0 → Rounds64 (value64 a / value64 b) (ddiv a b)) ∧
    (value64 a + value64 b = 0 → (dadd a b).msb = (a.msb && b.msb)) ∧
    (value64 a - value64 b = 0 → (dsub a b).msb = (a.msb && !b.msb)) ∧
    (dmul a b).msb = (a.msb != b.msb) ∧
    (value64 b ≠ 0 → (ddiv a b).msb = (a.msb != b.msb)) ∧
    (dlt a b = true ↔ value64 a < value64 b))

/-- A NaN operand gives a NaN; infinity minus infinity, zero times infinity, zero over zero and infinity over infinity give a NaN; infinity plus or minus a finite value is that infinity, a finite value minus infinity the opposite one; infinity times a non-zero value (in either order), infinity over a finite value and a finite non-zero value over zero are infinite, a finite value over infinity is zero, each with the exclusive-or of the signs. No operation stops. Which NaN results is free (log entry 11). (R9, R271) -/
def Obligations.SpecialOperands : Prop :=
  ∀ (c : Cfg) (a b : F32),
    (isNaN32 a = true ∨ isNaN32 b = true → isNaN32 (fadd c a b) = true ∧
      isNaN32 (fsub c a b) = true ∧ isNaN32 (fmul c a b) = true ∧ isNaN32 (fdiv c a b) = true) ∧
    (isInf32 a = true → isInf32 b = true →
      isNaN32 (fdiv c a b) = true ∧
      (a.msb ≠ b.msb → isNaN32 (fadd c a b) = true ∧ fsub c a b = a) ∧
      (a.msb = b.msb → isNaN32 (fsub c a b) = true ∧ fadd c a b = a)) ∧
    (isInf32 a = true → isFinite32 b = true →
      fadd c a b = a ∧ fadd c b a = a ∧ fsub c a b = a ∧ fsub c b a = flipSign a ∧
      isInf32 (fdiv c a b) = true ∧ (fdiv c a b).msb = (a.msb != b.msb) ∧
      isZero32 (fdiv c b a) = true ∧ (fdiv c b a).msb = (a.msb != b.msb)) ∧
    (isInf32 a = true → isZero32 b = true →
      isNaN32 (fmul c a b) = true ∧ isNaN32 (fmul c b a) = true) ∧
    (isInf32 a = true → isNaN32 b = false → isZero32 b = false →
      isInf32 (fmul c a b) = true ∧ (fmul c a b).msb = (a.msb != b.msb) ∧
      isInf32 (fmul c b a) = true ∧ (fmul c b a).msb = (a.msb != b.msb)) ∧
    (isZero32 a = true → isZero32 b = true → isNaN32 (fdiv c a b) = true) ∧
    (isFinite32 a = true → isZero32 a = false → isZero32 b = true →
      isInf32 (fdiv c a b) = true ∧ (fdiv c a b).msb = (a.msb != b.msb))

/-- With FTZ true, each of the four operations, unary minus, abs, the narrowing to binary32 and every binary32 function of NUM (tanh, sin, cos, log10, pow10) gives what it gives with FTZ false, except that a subnormal result is replaced by the zero of the same sign. That these are the results FTZ acts on, and that it leaves operands, clamp and stored data alone, is log entry 12. (R6, R9, R13) -/
def Obligations.FtzFlushesSubnormals : Prop :=
  ∀ (c : Cfg) (a b : F32) (v : F64), c.ftz = true →
    let keep := { c with ftz := false }
    fadd c a b = flushed (fadd keep a b) ∧ fsub c a b = flushed (fsub keep a b) ∧
    fmul c a b = flushed (fmul keep a b) ∧ fdiv c a b = flushed (fdiv keep a b) ∧
    fneg c a = flushed (fneg keep a) ∧ fabs c a = flushed (fabs keep a) ∧
    to32 c v = flushed (to32 keep v) ∧
    tanhF32 c a = flushed (tanhF32 keep a) ∧ sinF32 c a = flushed (sinF32 keep a) ∧
    cosF32 c a = flushed (cosF32 keep a) ∧ log10F32 c a = flushed (log10F32 keep a) ∧
    pow10F32 c a = flushed (pow10F32 keep a)

/-- int_to_f32 is exact for |n| < 2^24; widening a finite binary32 value is exact; narrowing a finite binary64 value with FTZ false rounds it to nearest, ties to even; floor gives the largest integer not above a finite value, as a value and as an integer; round-away gives the nearest integer, halves away from zero. (R9, R11) -/
def Obligations.ConversionsAndIntegralRounding : Prop :=
  (∀ n : Int, |n| < 2 ^ 24 → isFinite32 (intToF32 n) = true ∧ value32 (intToF32 n) = n) ∧
  (∀ x : F32, isFinite32 x = true → isFinite64 (to64 x) = true ∧ value64 (to64 x) = value32 x) ∧
  (∀ (c : Cfg) (v : F64), c.ftz = false → isFinite64 v = true → Rounds32 (value64 v) (to32 c v)) ∧
  (∀ x : F32, isFinite32 x = true → isFinite32 (ffloor x) = true ∧
    value32 (ffloor x) = ⌊value32 x⌋ ∧ intOfF32 (ffloor x) = ⌊value32 x⌋) ∧
  (∀ x : F32, isFinite32 x = true → isFinite32 (froundAway x) = true ∧
    value32 (froundAway x) =
      if value32 x < 0 then -(⌊-value32 x + 1 / 2⌋ : ℚ) else (⌊value32 x + 1 / 2⌋ : ℚ))

/-- On finite values the comparisons are those of the values (so -0 and +0 are equal); with a NaN every comparison is false; clamp returns a NaN unchanged, and for finite bounds in order it gives the value brought into the bounds, +inf to the upper and -inf to the lower one. (R11, R110) -/
def Obligations.ComparisonAndClamp : Prop :=
  (∀ a b : F32, isFinite32 a = true → isFinite32 b = true →
    (flt a b = true ↔ value32 a < value32 b) ∧ (fle a b = true ↔ value32 a ≤ value32 b)) ∧
  (∀ a b : F32, isNaN32 a = true ∨ isNaN32 b = true → flt a b = false ∧ fle a b = false) ∧
  (∀ v lo hi : F32, isNaN32 v = true → fclamp v lo hi = v) ∧
  (∀ v lo hi : F32, isFinite32 lo = true → isFinite32 hi = true → value32 lo ≤ value32 hi →
    (isFinite32 v = true → isFinite32 (fclamp v lo hi) = true ∧
      value32 (fclamp v lo hi) = max (value32 lo) (min (value32 v) (value32 hi))) ∧
    (isInf32 v = true → fclamp v lo hi = if v.msb then lo else hi))

/-- Each constant's bit pattern is the value of its format nearest to the decimal the spec writes, ties to even: binary32 for the per-sample constants, binary64 for those of PREPARE and the tone cutoff. PI_D is within half a unit in its last place of π; HALF_PI_F is the narrowing of PI_D over 2. (R10, R119) -/
def Obligations.LiteralsAreNearest : Prop :=
  (∀ p ∈ ([(lit0p05, 5 / 100), (lit0p1, 1 / 10), (lit0p11, 11 / 100), (lit0p1848, 1848 / 10000),
      (lit0p2, 2 / 10), (lit0p3, 3 / 10), (lit0p5, 5 / 10), (lit0p7, 7 / 10), (lit0p8, 8 / 10),
      (lit0p9, 9 / 10), (lit0p95, 95 / 100), (lit1, 1), (lit1p1, 11 / 10), (lit1p5, 15 / 10),
      (lit2, 2), (lit2p5, 25 / 10), (lit3, 3), (lit6, 6), (lit20, 20), (litNeg20, -20),
      (litNeg60, -60), (lit95, 95), (lit100, 100), (lit300, 300), (lit1000, 1000),
      (pole0, 99765 / 100000), (gain0, 990460 / 10000000), (pole1, 96300 / 100000),
      (gain1, 2965164 / 10000000), (pole2, 57000 / 100000), (gain2, 10526913 / 10000000)] :
      List (F32 × ℚ)), Rounds32 p.2 p.1) ∧
  (∀ p ∈ ([(dbl1, 1), (dblNeg1, -1), (dbl2, 2), (dblNeg2, -2), (dbl0p001, 1 / 1000),
      (dbl0p050, 50 / 1000), (dbl0p005, 5 / 1000), (dbl0p707, 707 / 1000), (dbl100, 100),
      (dbl3000, 3000), (dbl5000, 5000), (dbl16000, 16000)] : List (F64 × ℚ)), Rounds64 p.2 p.1) ∧
  |((value64 piD : ℚ) : ℝ) - Real.pi| < 1 / 2 ^ 52 ∧
  (∀ c : Cfg, to32 c (ddiv piD dbl2) = halfPiF)

/-- Whatever functions the configuration supplies, tanh_f32 returns a NaN for a NaN, each zero for itself, a finite value of magnitude at most 1 for every other argument, and is odd. That every NUM is brought to these properties is the construction of log entry 10. (R13) -/
def Obligations.TanhProperties : Prop :=
  ∀ (c : Cfg) (x : F32),
    (isNaN32 x = true → isNaN32 (tanhF32 c x) = true) ∧
    (isZero32 x = true → tanhF32 c x = x) ∧
    (isNaN32 x = false → isFinite32 (tanhF32 c x) = true ∧ |value32 (tanhF32 c x)| ≤ 1 ∧
      tanhF32 c (flipSign x) = flipSign (tanhF32 c x))

/-- For every non-negative finite binary64 rate the capacity is the ceiling of three tenths of its exact value, plus 4: 13234 at 44100, 14404 at 48000, 28804 at 96000, 57604 at 192000, 4805 at 16000.5. A rate is legal exactly when it is finite, above 16000 and its capacity fits the delay RAM. (R251, R252) -/
def Obligations.CapacityAndLegalRates : Prop :=
  (∀ fs : F64, isFinite64 fs = true → fs.msb = false →
    (capacityOf fs : ℤ) = ⌈3 * value64 fs / 10⌉ + 4) ∧
  (∀ (c : Cfg) (fs : F64), rateLegal c fs = true ↔
    (isFinite64 fs = true ∧ 16000 < value64 fs ∧ ⌈3 * value64 fs / 10⌉ + 4 ≤ (c.delayRamWords : ℤ))) ∧
  capacityOf 0x40E5888000000000#64 = 13234 ∧ capacityOf 0x40E7700000000000#64 = 14404 ∧
  capacityOf 0x40F7700000000000#64 = 28804 ∧ capacityOf 0x4107700000000000#64 = 57604 ∧
  capacityOf 0x40CF404000000000#64 = 4805

/-- On a prepared core with FTZ false, take a sample that is no NaN, run COMPRESS, move RESULT to A0 and run EXPAND on the same instance: if the compress envelope and the expand envelope after their updates are below 0.1, RESULT is the sample, bit for bit. (R151, R152, R153, R156) -/
def Obligations.CompanderExactBelowThreshold : Prop :=
  ∀ (ch : Channel) (st : Stage) (s t u : State), s.eng.prep = true → s.cfg.ftz = false →
    isNaN32 s.a0 = false → exec (.compress ch st) s = .next t →
    flt (t.inst ch st).cmp.envC lit0p1 = true →
    exec (.expand ch st) { t with a0 := t.result } = .next u →
    flt (u.inst ch st).cmp.envE lit0p1 = true → u.result = s.a0

/-- For every envelope both gains are a NaN or lie in [0.1, 3.0]; for every input, draw and artifact state the BBD output is a NaN or has at most the magnitude of 1.1f. (R151, R154, R155, R175) -/
def Obligations.GainAndSaturationBounds : Prop :=
  (∀ (c : Cfg) (e : F32),
    (isNaN32 (compressGain c e) = true ∨
      (fle lit0p1 (compressGain c e) = true ∧ fle (compressGain c e) lit3 = true)) ∧
    (isNaN32 (expandGain c e) = true ∨
      (fle lit0p1 (expandGain c e) = true ∧ fle (expandGain c e) lit3 = true))) ∧
  (∀ (c : Cfg) (x delayMs w : F32) (b : Artifact),
    isNaN32 (bbdWith c x delayMs w b).2 = true ∨
    (isFinite32 (bbdWith c x delayMs w b).2 = true ∧
      |value32 (bbdWith c x delayMs w b).2| ≤ value32 lit1p1))

/-- On a prepared core with sound rings, FTZ false, a CAP below 2^24 and parameters that are no NaN: if the delay in samples is an integer d, and the four ring elements around the position (w - d) mod CAP are no NaN, DELAY_SAMPLE returns the element at that position, the one written d samples ago: the same pattern when it is not zero, and a zero when it is. The polynomial itself does so at fraction +0.0 for any taps in [-1, 1]. (R131, R134, R137, R140) -/
def Obligations.IntegralDelayIsExact : Prop :=
  (∀ (c : Cfg) (y0 y1 y2 y3 : F32), c.ftz = false →
    withinOne y0 = true → withinOne y1 = true → withinOne y2 = true → withinOne y3 = true →
    (isZero32 y1 = false → interpolate c y0 y1 y2 y3 lit0 = y1) ∧
    (isZero32 y1 = true → isZero32 (interpolate c y0 y1 y2 y3 lit0) = true)) ∧
  (∀ (ch : Channel) (st : Stage) (s : State) (d : Nat), EngineInstalled s → RingsSound s →
    s.eng.prep = true → s.eng.cap < 2 ^ 24 → s.cfg.ftz = false →
    isNaN32 (s.paramReg st .delayMs) = false → isNaN32 (s.paramReg st .feedbackPct) = false →
    value32 (delaySamples s.cfg s.eng (s.paramRead st .delayMs)) = d →
    let line := (s.inst ch st).dly
    let y := fun j : Int => cellGet line.ring (((line.w : Int) - d + j) % (s.eng.cap : Int)).toNat
    (∀ j ∈ ([-1, 0, 1, 2] : List Int), isNaN32 (y j) = false) →
    ∃ t, exec (.delaySample ch st) s = .next t ∧
      (isZero32 (y 0) = false → t.result = y 0) ∧
      (isZero32 (y 0) = true → isZero32 t.result = true))

/-- On a prepared core with FTZ false, for a NUM with sin(+0) = +0 and cos(+0) = 1 and a finite MIXC: if the ratio is +0.0 or not yet primed (MIX_INIT = snap; then with a MIXC that is not negative), the mix parameter is at most 0, wet is finite and dry is no NaN, then MIX_SAMPLE leaves the ratio primed at +0.0 and returns dry, the same pattern when it is not zero and a zero when it is. (R210, R213, R214) -/
def Obligations.MixZeroIsDry : Prop :=
  ∀ (ch : Channel) (st : Stage) (s : State), s.eng.prep = true → s.cfg.ftz = false →
    sinF32 s.cfg lit0 = lit0 → cosF32 s.cfg lit0 = lit1 → isFinite32 s.eng.mixc = true →
    ((s.inst ch st).mix.primed = true → (s.inst ch st).mix.sm = lit0) →
    ((s.inst ch st).mix.primed = false → s.eng.mixc.msb = false) → fle (s.paramReg st .mixPct) lit0 = true →
    isFinite32 s.a1 = true → isNaN32 s.a0 = false →
    ∃ t, exec (.mixSample ch st) s = .next t ∧ (t.inst ch st).mix = ⟨lit0, true⟩ ∧
      (isZero32 s.a0 = false → t.result = s.a0) ∧ (isZero32 s.a0 = true → isZero32 t.result = true)

/-- For attack and release coefficients in [0, 1], a finite envelope that is not negative and a finite sample, the updated envelope is no NaN and not negative, whichever branch the follower takes and whether or not FTZ is set: the roundings cannot take it below 0. (R32, R150) -/
def Obligations.EnvelopesStayNonNegative : Prop :=
  ∀ (c : Cfg) (g : Engine) (env x : F32),
    isFinite32 g.att = true → 0 ≤ value32 g.att → value32 g.att ≤ 1 →
    isFinite32 g.rel = true → 0 ≤ value32 g.rel → value32 g.rel ≤ 1 →
    isFinite32 env = true → 0 ≤ value32 env → isFinite32 x = true →
    fle lit0 (envelope c g env x) = true

/-- With FTZ false, a NUM with sin(+0) = +0 and cos(+0) = 1, a finite MIXC, a stage-2 ratio of +0.0 or not yet primed (MIX_INIT = snap; then with a MIXC that is not negative) and a stage-2 mix of at most 0: if stage 1 gives no NaN and stage 2's filtered signal is finite, one cascaded sample leaves stage 1 exactly as standard mode does, leaves the stage-2 ratio primed at +0.0, and has the standard-mode output (the same pattern, or a zero for a zero). (R31, R214, R237, R242) -/
def Obligations.CascadeAtMixZeroIsStandard : Prop :=
  ∀ (c : Cfg) (g : Engine) (ch : Channel) (b : BlockRun) (x : F32) (I1 I2 : Inst),
    c.ftz = false → sinF32 c lit0 = lit0 → cosF32 c lit0 = lit1 → isFinite32 g.mixc = true →
    (I2.mix.primed = true → I2.mix.sm = lit0) → (I2.mix.primed = false → g.mixc.msb = false) →
    b.byp = false → fle b.p2.mixPct lit0 = true →
    let s1 := (stage c g ch .one x b.p1 I1).2
    let r1 := compressF c g s1 I2
    let r2 := delayInst c g r1.2 b.p2.delayMs b.p2.feedbackPct r1.1
    let r3 := bbdInst c ch .two r2.2 b.p2.delayMs r2.1
    let r4 := expandF c g r3.2 r3.1
    let wet := (filterInst c g r4.2 b.p2.tonePct r4.1).2
    isNaN32 s1 = false → isFinite32 wet = true →
    let casc := engineSample c g ch { b with casc := true } x (I1, I2)
    let std := engineSample c g ch { b with casc := false } x (I1, I2)
    casc.1.1 = std.1.1 ∧ casc.1.2.mix = ⟨lit0, true⟩ ∧
    (casc.2 = std.2 ∨ (isZero32 casc.2 = true ∧ isZero32 std.2 = true))

/-- The state after reset has canonical memory with nothing at reserved offsets, sound delay lines, the engine state of power-on, tuned filters, a legal ERR code and primed mixes. (R32, R40, R62, R270, R300) -/
def Obligations.InvariantsAtReset : Prop :=
  MemorySound State.reset ∧ RingsSound State.reset ∧ EngineInstalled State.reset ∧
  FiltersTuned State.reset ∧ ErrLegal State.reset ∧ MixPrimed State.reset

/-- From every sound state, every step that has a next state ends in a sound state: memory stays canonical with nothing at reserved offsets; every write index stays in [0, CAP) and every ring element in [-1, 1] or NaN with nothing beyond the ring; the engine state stays that of power-on or all of what one PREPARE installs; every anti-alias section holds LPF(5000) and every tuned tone section the coefficients of its last tone in [0, 100]; ERR is 0 to 5; primed is false only with MIX_INIT = snap. (R30, R32, R62, R139, R191, R192, R254, R255, R270) -/
def Obligations.InvariantsKept : Prop :=
  ∀ s t : State, step s = .next t →
    (MemorySound s ∧ RingsSound s ∧ EngineInstalled s ∧ FiltersTuned s ∧ ErrLegal s ∧ MixPrimed s) →
    (MemorySound t ∧ RingsSound t ∧ EngineInstalled t ∧ FiltersTuned t ∧ ErrLegal t ∧ MixPrimed t)

end Statements
end

