-- ==== Sys2Proof/Laws/Float.lean ====
section
/-! SUPPORT. The laws of the arithmetic: rounding is exact on representable values and monotone, results that are NaNs are NaNs, and the functions of NUM have the properties of R13's shape. -/

namespace Sys2Proof.Machine

/-! ## Rounding to the nearest integer -/

theorem divNearestEven_exact {d : Nat} (hd : 0 < d) (t : Nat) : divNearestEven (t * d) d = t := by
  simp [divNearestEven, Nat.mul_div_cancel _ hd, hd]

theorem divNearestEven_le_succ (n d : Nat) : divNearestEven n d ≤ n / d + 1 := by
  unfold divNearestEven
  have := Nat.mod_lt (n / d) (by omega : 0 < 2)
  simp only
  split_ifs <;> omega

theorem le_divNearestEven (n d : Nat) : n / d ≤ divNearestEven n d := by
  unfold divNearestEven
  simp only
  split_ifs <;> omega

/-- Rounding to an integer is monotone in the quotient. -/
theorem divNearestEven_mono {n d n' d' : Nat} (hd : 0 < d) (hd' : 0 < d') (h : n * d' ≤ n' * d) :
    divNearestEven n d ≤ divNearestEven n' d' := by
  have hq : n / d ≤ n' / d' := by
    rw [Nat.le_div_iff_mul_le hd']
    have h1 : n / d * d ≤ n := Nat.div_mul_le_self n d
    have h2 : n / d * d' * d ≤ n' * d := by
      calc n / d * d' * d = n / d * d * d' := by ring
        _ ≤ n * d' := Nat.mul_le_mul_right _ h1
        _ ≤ n' * d := h
    exact Nat.le_of_mul_le_mul_right h2 hd
  rcases Nat.lt_or_ge (n / d) (n' / d') with hlt | hge
  · exact (divNearestEven_le_succ n d).trans (le_trans (Nat.succ_le_of_lt hlt) (le_divNearestEven n' d'))
  · have heq : n / d = n' / d' := le_antisymm hq hge
    have hr : n % d * d' ≤ n' % d' * d := by
      have e1 := Nat.div_add_mod n d
      have e2 := Nat.div_add_mod n' d'
      rw [← heq] at e2
      have : (d * (n / d) + n % d) * d' ≤ (d' * (n / d) + n' % d') * d := by rw [e1, e2]; exact h
      nlinarith [this]
    have r1 := Nat.mod_lt n hd
    have r2 := Nat.mod_lt n' hd'
    unfold divNearestEven
    simp only [heq]
    split_ifs with a1 a2 a3 a4 a5 a6 a7 a8
    all_goals first
      | omega
      | (exfalso; nlinarith)

/-! ## Formats -/

theorem FloatFormat.units_of_lt (f : FloatFormat) {m : Nat} (h : m < f.hidden) : f.units m = m := by
  simp [FloatFormat.units, h]

theorem FloatFormat.units_of_ge (f : FloatFormat) {m : Nat} (h : f.hidden ≤ m) :
    f.units m = (f.hidden + m % f.hidden) * 2 ^ (m / f.hidden - 1) := by
  simp [FloatFormat.units, Nat.not_lt.mpr h]

/-- The fields of a rounded value before the overflow test. -/
def FloatFormat.rawRound (f : FloatFormat) (n d : Nat) : Nat :=
  (Nat.log2 (n / d) - Nat.log2 f.hidden) * f.hidden +
    divNearestEven n (d * 2 ^ (Nat.log2 (n / d) - Nat.log2 f.hidden))

theorem FloatFormat.roundUnits_eq (f : FloatFormat) (n d : Nat) :
    f.roundUnits n d = min (f.rawRound n d) f.infMag := by
  simp only [FloatFormat.roundUnits, FloatFormat.rawRound]
  split_ifs <;> omega

/-- Rounding a value the format has gives its bits. -/
theorem FloatFormat.rawRound_units (f : FloatFormat) {k d : Nat} (hk : f.hidden = 2 ^ k) (hd : 0 < d)
    (m : Nat) : f.rawRound (f.units m * d) d = m := by
  have hpos : 0 < f.hidden := by rw [hk]; positivity
  have hlog : Nat.log2 f.hidden = k := by rw [hk]; exact Nat.log2_two_pow
  unfold FloatFormat.rawRound
  rw [Nat.mul_div_cancel _ hd, hlog]
  rcases Nat.lt_or_ge m f.hidden with hm | hm
  · rw [f.units_of_lt hm]
    have hu : Nat.log2 m - k = 0 := by
      rcases Nat.eq_zero_or_pos m with rfl | hp
      · simp
      · have : Nat.log2 m < k := (Nat.log2_lt (by omega)).mpr (by rw [← hk]; exact hm)
        omega
    rw [hu]
    simpa using divNearestEven_exact hd m
  · rw [f.units_of_ge hm]
    set e := m / f.hidden - 1 with he
    have hdiv : 1 ≤ m / f.hidden := (Nat.one_le_div_iff hpos).mpr hm
    have hr := Nat.mod_lt m hpos
    have hlogV : Nat.log2 ((f.hidden + m % f.hidden) * 2 ^ e) = k + e := by
      rw [Nat.log2_eq_iff (by positivity)]
      rw [hk] at hr ⊢
      constructor
      · rw [pow_add]; exact Nat.mul_le_mul_right _ (Nat.le_add_right _ _)
      · rw [pow_succ, pow_add]
        have : 2 ^ k + m % 2 ^ k < 2 ^ k * 2 := by omega
        calc (2 ^ k + m % 2 ^ k) * 2 ^ e < 2 ^ k * 2 * 2 ^ e :=
              Nat.mul_lt_mul_of_pos_right this (by positivity)
          _ = 2 ^ k * 2 ^ e * 2 := by ring
    rw [hlogV]
    have hu : k + e - k = e := by omega
    rw [hu]
    have hx : (f.hidden + m % f.hidden) * 2 ^ e * d = (f.hidden + m % f.hidden) * (d * 2 ^ e) := by ring
    rw [hx, divNearestEven_exact (by positivity)]
    have hmod := Nat.div_add_mod m f.hidden
    have : (e + 1) * f.hidden = f.hidden * (m / f.hidden) := by
      rw [he, Nat.sub_add_cancel hdiv]; ring
    nlinarith [this, hmod]

theorem FloatFormat.roundUnits_units (f : FloatFormat) {k d m : Nat} (hk : f.hidden = 2 ^ k)
    (hd : 0 < d) (hm : m ≤ f.infMag) : f.roundUnits (f.units m * d) d = m := by
  rw [f.roundUnits_eq, f.rawRound_units hk hd]; omega

theorem log2_mono {a b : Nat} (h : a ≤ b) : Nat.log2 a ≤ Nat.log2 b := by
  rcases Nat.eq_zero_or_pos a with rfl | ha
  · simp
  · exact (Nat.le_log2 (by omega)).mpr ((Nat.log2_self_le (by omega)).trans h)

/-- Rounding is monotone. -/
theorem FloatFormat.rawRound_mono (f : FloatFormat) {k n d n' d' : Nat} (hk : f.hidden = 2 ^ k)
    (hd : 0 < d) (hd' : 0 < d') (h : n * d' ≤ n' * d) : f.rawRound n d ≤ f.rawRound n' d' := by
  have hpos : 0 < f.hidden := by rw [hk]; positivity
  have hlog : Nat.log2 f.hidden = k := by rw [hk]; exact Nat.log2_two_pow
  have hq : n / d ≤ n' / d' := by
    rw [Nat.le_div_iff_mul_le hd']
    have h2 : n / d * d' * d ≤ n' * d := by
      calc n / d * d' * d = n / d * d * d' := by ring
        _ ≤ n * d' := Nat.mul_le_mul_right _ (Nat.div_mul_le_self n d)
        _ ≤ n' * d := h
    exact Nat.le_of_mul_le_mul_right h2 hd
  have hu := log2_mono hq
  unfold FloatFormat.rawRound
  rw [hlog]
  set u := Nat.log2 (n / d) - k with hu1
  set u' := Nat.log2 (n' / d') - k with hu2
  have huu : u ≤ u' := by omega
  rcases Nat.eq_or_lt_of_le huu with heq | hlt
  · rw [heq]
    apply Nat.add_le_add_left
    apply divNearestEven_mono (by positivity) (by positivity)
    calc n * (d' * 2 ^ u') = n * d' * 2 ^ u' := by ring
      _ ≤ n' * d * 2 ^ u' := Nat.mul_le_mul_right _ h
      _ = n' * (d * 2 ^ u') := by ring
  · have hdd : 0 < d * 2 ^ u := by positivity
    have hdd' : 0 < d' * 2 ^ u' := by positivity
    have h1 : divNearestEven n (d * 2 ^ u) ≤ 2 * f.hidden := by
      have hlt2 : n / d < 2 ^ (k + u + 1) := by
        rcases Nat.eq_zero_or_pos (n / d) with h0 | h0
        · rw [h0]; positivity
        · exact (Nat.log2_lt (by omega)).mp (by omega)
      have hn : n < 2 ^ (k + u + 1) * d := (Nat.div_lt_iff_lt_mul hd).mp hlt2
      have : divNearestEven n (d * 2 ^ u) ≤ divNearestEven (2 * f.hidden * (d * 2 ^ u)) (d * 2 ^ u) := by
        apply divNearestEven_mono hdd hdd
        apply Nat.mul_le_mul_right
        rw [hk]
        calc n ≤ 2 ^ (k + u + 1) * d := hn.le
          _ = 2 * 2 ^ k * (d * 2 ^ u) := by rw [pow_succ, pow_add]; ring
      rwa [divNearestEven_exact hdd] at this
    have h2 : f.hidden ≤ divNearestEven n' (d' * 2 ^ u') := by
      have hge : 2 ^ (k + u') ≤ n' / d' := by
        have h0 : n' / d' ≠ 0 := by
          intro h0
          rw [h0] at hu2
          simp at hu2
          omega
        exact (Nat.le_log2 h0).mp (by omega)
      have hn : 2 ^ (k + u') * d' ≤ n' := (Nat.le_div_iff_mul_le hd').mp hge
      have : divNearestEven (f.hidden * (d' * 2 ^ u')) (d' * 2 ^ u') ≤ divNearestEven n' (d' * 2 ^ u') := by
        apply divNearestEven_mono hdd' hdd'
        apply Nat.mul_le_mul_right
        rw [hk]
        calc 2 ^ k * (d' * 2 ^ u') = 2 ^ (k + u') * d' := by rw [pow_add]; ring
          _ ≤ n' := hn
      rwa [divNearestEven_exact hdd'] at this
    have h3 : (u + 1) * f.hidden ≤ u' * f.hidden := Nat.mul_le_mul_right _ hlt
    nlinarith [h1, h2, h3]

theorem FloatFormat.roundUnits_mono (f : FloatFormat) {k n d n' d' : Nat} (hk : f.hidden = 2 ^ k)
    (hd : 0 < d) (hd' : 0 < d') (h : n * d' ≤ n' * d) : f.roundUnits n d ≤ f.roundUnits n' d' := by
  rw [f.roundUnits_eq, f.roundUnits_eq]
  have := f.rawRound_mono hk hd hd' h
  omega

theorem FloatFormat.roundUnits_le (f : FloatFormat) (n d : Nat) : f.roundUnits n d ≤ f.infMag := by
  rw [f.roundUnits_eq]; omega

theorem FloatFormat.roundUnits_zero (f : FloatFormat) (d : Nat) : f.roundUnits 0 d = 0 := by
  simp [FloatFormat.roundUnits, divNearestEven, Nat.zero_div]

theorem binary32_hidden : binary32.hidden = 2 ^ 23 := by decide
theorem binary64_hidden : binary64.hidden = 2 ^ 52 := by decide

/-! ## binary32 patterns -/

theorem pack32_toNat {v : SignMag} (h : v.mag < 2147483648) :
    (pack32 v).toNat = if v.neg then 2147483648 + v.mag else v.mag := by
  unfold pack32
  rw [BitVec.toNat_ofNat]
  split <;> omega

theorem pack32_mag {v : SignMag} (h : v.mag < 2147483648) :
    (pack32 v).toNat % 2147483648 = v.mag := by
  rw [pack32_toNat h]; split <;> omega

theorem pack32_msb {v : SignMag} (h : v.mag < 2147483648) : (pack32 v).msb = v.neg := by
  rw [BitVec.msb_eq_decide, pack32_toNat h]
  cases v.neg
  · simp; omega
  · simp

theorem unpack32_pack32 {v : SignMag} (h : v.mag < 2147483648) : unpack32 (pack32 v) = v := by
  unfold unpack32
  rw [pack32_mag h, pack32_msb h]

theorem pack32_unpack32 (x : F32) : pack32 (unpack32 x) = x := by
  unfold pack32 unpack32
  apply BitVec.eq_of_toNat_eq
  have hx := x.isLt
  rw [BitVec.toNat_ofNat, BitVec.msb_eq_decide]
  by_cases hm : 2147483648 ≤ x.toNat
  · simp only [Nat.reduceSub, Nat.reducePow, hm, decide_true, if_true]; omega
  · simp only [Nat.reduceSub, Nat.reducePow, hm, decide_false, Bool.false_eq_true, if_false]; omega

/-- A NaN result is a NaN (I8). -/
@[simp] theorem isNaN32_nan32 (src : NanSource) (a b : BitVec 64) : isNaN32 (nan32 src a b) = true := by
  unfold nan32
  split
  · assumption
  · decide

@[simp] theorem isNaN64_nan64 (src : NanSource) (a b : F64) : isNaN64 (nan64 src a b) = true := by
  unfold nan64
  split
  · assumption
  · decide

theorem flushMag_le (c : Cfg) (m : Nat) : flushMag c m ≤ m := by
  unfold flushMag; split <;> omega

/-- A sign flip leaves the magnitude. -/
theorem flipSign_toNat_mod (x : F32) : (flipSign x).toNat % 2147483648 = x.toNat % 2147483648 := by
  unfold flipSign
  rw [BitVec.toNat_xor]
  have : (2147483648 : Nat) = 2 ^ 31 := by norm_num
  rw [this, Nat.xor_mod_two_pow]
  simp

@[simp] theorem isNaN32_flipSign (x : F32) : isNaN32 (flipSign x) = isNaN32 x := by
  unfold isNaN32; rw [flipSign_toNat_mod]

@[simp] theorem withinOne_flipSign (x : F32) : withinOne (flipSign x) = withinOne x := by
  unfold withinOne; rw [flipSign_toNat_mod]

/-- With FTZ false every value is kept. -/
theorem flush32_of_ftz_false {c : Cfg} (h : c.ftz = false) (x : F32) : flush32 c x = x := by
  have hm : flushMag c (x.toNat % 2147483648) = x.toNat % 2147483648 := by simp [flushMag, h]
  unfold flush32
  rw [hm]
  split
  · rfl
  · exact pack32_unpack32 x

theorem fneg_of_ftz_false {c : Cfg} (h : c.ftz = false) (x : F32) : fneg c x = flipSign x :=
  flush32_of_ftz_false h _

theorem fabs_of_ftz_false {c : Cfg} (h : c.ftz = false) (x : F32) : fabs c x = clearSign x :=
  flush32_of_ftz_false h _

/-- `int_to_f32` on the integers R9 states it for. -/
theorem intToF32_of_lt {n : Int} (h : n.natAbs < 16777216) :
    intToF32 n = pack32 ⟨decide (n < 0), binary32.roundUnits (n.natAbs * 2 ^ 149) 1⟩ := by
  simp [intToF32, h]

@[simp] theorem withinOne_boundedByOne (x : F32) : withinOne (boundedByOne x) = true := by
  unfold boundedByOne
  split
  · assumption
  · decide

/-- A value of [-1, 1] is no NaN. -/
theorem not_isNaN32_of_withinOne {x : F32} (h : withinOne x = true) : isNaN32 x = false := by
  simp [withinOne, isNaN32] at *
  omega

/-- The result of `tanh_f32` is a NaN or lies in [-1, 1]. -/
theorem tanhF32_bounded (c : Cfg) (x : F32) :
    isNaN32 (tanhF32 c x) = true ∨ withinOne (tanhF32 c x) = true := by
  unfold tanhF32
  split
  · left; simp
  · split
    · right; simp_all [isZero32, withinOne]
    · right
      simp only
      split <;> simp

end Sys2Proof.Machine
end

