-- ==== Sys2Proof/Laws/State.lean ====
section
/-! SUPPORT. What each update of the state leaves in each field: one lemma per field per update. -/

namespace Sys2Proof.Machine

variable (s : State)

/-! ## RESULT written -/

@[simp] theorem State.setResult_cfg (v : F32) : (s.setResult v).cfg = s.cfg := rfl
@[simp] theorem State.setResult_err (v : F32) : (s.setResult v).err = s.err := rfl
@[simp] theorem State.setResult_ctrl (v : F32) : (s.setResult v).ctrl = s.ctrl := rfl
@[simp] theorem State.setResult_blockLen (v : F32) : (s.setResult v).blockLen = s.blockLen := rfl
@[simp] theorem State.setResult_eng (v : F32) : (s.setResult v).eng = s.eng := rfl
@[simp] theorem State.setResult_s1 (v : F32) : (s.setResult v).s1 = s.s1 := rfl
@[simp] theorem State.setResult_s2 (v : F32) : (s.setResult v).s2 = s.s2 := rfl
@[simp] theorem State.setResult_a0 (v : F32) : (s.setResult v).a0 = s.a0 := rfl
@[simp] theorem State.setResult_a1 (v : F32) : (s.setResult v).a1 = s.a1 := rfl
@[simp] theorem State.setResult_a2 (v : F32) : (s.setResult v).a2 = s.a2 := rfl
@[simp] theorem State.setResult_a3 (v : F32) : (s.setResult v).a3 = s.a3 := rfl
@[simp] theorem State.setResult_a4 (v : F32) : (s.setResult v).a4 = s.a4 := rfl
@[simp] theorem State.setResult_a5 (v : F32) : (s.setResult v).a5 = s.a5 := rfl
@[simp] theorem State.setResult_i00 (v : F32) : (s.setResult v).i00 = s.i00 := rfl
@[simp] theorem State.setResult_i01 (v : F32) : (s.setResult v).i01 = s.i01 := rfl
@[simp] theorem State.setResult_i10 (v : F32) : (s.setResult v).i10 = s.i10 := rfl
@[simp] theorem State.setResult_i11 (v : F32) : (s.setResult v).i11 = s.i11 := rfl
@[simp] theorem State.setResult_mem (v : F32) : (s.setResult v).mem = s.mem := rfl
@[simp] theorem State.setResult_host (v : F32) : (s.setResult v).host = s.host := rfl
@[simp] theorem State.setResult_control (v : F32) : (s.setResult v).control = s.control := rfl
@[simp] theorem State.setResult_reads (v : F32) : (s.setResult v).reads = s.reads := rfl
@[simp] theorem State.setResult_result (v : F32) : (s.setResult v).result = v := rfl

/-! ## An instance replaced -/

@[simp] theorem State.setInst_cfg (ch : Channel) (st : Stage) (I : Inst) : (s.setInst ch st I).cfg = s.cfg := by
  cases ch <;> cases st <;> rfl
@[simp] theorem State.setInst_err (ch : Channel) (st : Stage) (I : Inst) : (s.setInst ch st I).err = s.err := by
  cases ch <;> cases st <;> rfl
@[simp] theorem State.setInst_ctrl (ch : Channel) (st : Stage) (I : Inst) : (s.setInst ch st I).ctrl = s.ctrl := by
  cases ch <;> cases st <;> rfl
@[simp] theorem State.setInst_blockLen (ch : Channel) (st : Stage) (I : Inst) : (s.setInst ch st I).blockLen = s.blockLen := by
  cases ch <;> cases st <;> rfl
@[simp] theorem State.setInst_eng (ch : Channel) (st : Stage) (I : Inst) : (s.setInst ch st I).eng = s.eng := by
  cases ch <;> cases st <;> rfl
@[simp] theorem State.setInst_s1 (ch : Channel) (st : Stage) (I : Inst) : (s.setInst ch st I).s1 = s.s1 := by
  cases ch <;> cases st <;> rfl
@[simp] theorem State.setInst_s2 (ch : Channel) (st : Stage) (I : Inst) : (s.setInst ch st I).s2 = s.s2 := by
  cases ch <;> cases st <;> rfl
@[simp] theorem State.setInst_a0 (ch : Channel) (st : Stage) (I : Inst) : (s.setInst ch st I).a0 = s.a0 := by
  cases ch <;> cases st <;> rfl
@[simp] theorem State.setInst_a1 (ch : Channel) (st : Stage) (I : Inst) : (s.setInst ch st I).a1 = s.a1 := by
  cases ch <;> cases st <;> rfl
@[simp] theorem State.setInst_a2 (ch : Channel) (st : Stage) (I : Inst) : (s.setInst ch st I).a2 = s.a2 := by
  cases ch <;> cases st <;> rfl
@[simp] theorem State.setInst_a3 (ch : Channel) (st : Stage) (I : Inst) : (s.setInst ch st I).a3 = s.a3 := by
  cases ch <;> cases st <;> rfl
@[simp] theorem State.setInst_a4 (ch : Channel) (st : Stage) (I : Inst) : (s.setInst ch st I).a4 = s.a4 := by
  cases ch <;> cases st <;> rfl
@[simp] theorem State.setInst_a5 (ch : Channel) (st : Stage) (I : Inst) : (s.setInst ch st I).a5 = s.a5 := by
  cases ch <;> cases st <;> rfl
@[simp] theorem State.setInst_result (ch : Channel) (st : Stage) (I : Inst) : (s.setInst ch st I).result = s.result := by
  cases ch <;> cases st <;> rfl
@[simp] theorem State.setInst_mem (ch : Channel) (st : Stage) (I : Inst) : (s.setInst ch st I).mem = s.mem := by
  cases ch <;> cases st <;> rfl
@[simp] theorem State.setInst_host (ch : Channel) (st : Stage) (I : Inst) : (s.setInst ch st I).host = s.host := by
  cases ch <;> cases st <;> rfl
@[simp] theorem State.setInst_control (ch : Channel) (st : Stage) (I : Inst) : (s.setInst ch st I).control = s.control := by
  cases ch <;> cases st <;> rfl
@[simp] theorem State.setInst_reads (ch : Channel) (st : Stage) (I : Inst) : (s.setInst ch st I).reads = s.reads := by
  cases ch <;> cases st <;> rfl
@[simp] theorem State.inst_setInst_same (ch : Channel) (st : Stage) (I : Inst) : (s.setInst ch st I).inst ch st = I := by
  cases ch <;> cases st <;> rfl
theorem State.inst_setInst_other (ch ch' : Channel) (st st' : Stage) (I : Inst) (h : ch' ≠ ch ∨ st' ≠ st) :
    (s.setInst ch st I).inst ch' st' = s.inst ch' st' := by
  cases ch <;> cases st <;> cases ch' <;> cases st' <;> simp at h <;> rfl
theorem State.inst_setInst (ch ch' : Channel) (st st' : Stage) (I : Inst) :
    (s.setInst ch st I).inst ch' st' = if ch' = ch ∧ st' = st then I else s.inst ch' st' := by
  cases ch <;> cases st <;> cases ch' <;> cases st' <;> rfl
@[simp] theorem State.setInst_inst (ch : Channel) (st : Stage) : s.setInst ch st (s.inst ch st) = s := by
  cases ch <;> cases st <;> rfl
@[simp] theorem State.inst_setResult (v : F32) (ch : Channel) (st : Stage) : (s.setResult v).inst ch st = s.inst ch st := by
  cases ch <;> cases st <;> rfl

/-! ## All four instances changed alike -/

@[simp] theorem State.mapInst_cfg (f : Inst → Inst) : (s.mapInst f).cfg = s.cfg := rfl
@[simp] theorem State.mapInst_err (f : Inst → Inst) : (s.mapInst f).err = s.err := rfl
@[simp] theorem State.mapInst_ctrl (f : Inst → Inst) : (s.mapInst f).ctrl = s.ctrl := rfl
@[simp] theorem State.mapInst_blockLen (f : Inst → Inst) : (s.mapInst f).blockLen = s.blockLen := rfl
@[simp] theorem State.mapInst_eng (f : Inst → Inst) : (s.mapInst f).eng = s.eng := rfl
@[simp] theorem State.mapInst_s1 (f : Inst → Inst) : (s.mapInst f).s1 = s.s1 := rfl
@[simp] theorem State.mapInst_s2 (f : Inst → Inst) : (s.mapInst f).s2 = s.s2 := rfl
@[simp] theorem State.mapInst_a0 (f : Inst → Inst) : (s.mapInst f).a0 = s.a0 := rfl
@[simp] theorem State.mapInst_a1 (f : Inst → Inst) : (s.mapInst f).a1 = s.a1 := rfl
@[simp] theorem State.mapInst_a2 (f : Inst → Inst) : (s.mapInst f).a2 = s.a2 := rfl
@[simp] theorem State.mapInst_a3 (f : Inst → Inst) : (s.mapInst f).a3 = s.a3 := rfl
@[simp] theorem State.mapInst_a4 (f : Inst → Inst) : (s.mapInst f).a4 = s.a4 := rfl
@[simp] theorem State.mapInst_a5 (f : Inst → Inst) : (s.mapInst f).a5 = s.a5 := rfl
@[simp] theorem State.mapInst_result (f : Inst → Inst) : (s.mapInst f).result = s.result := rfl
@[simp] theorem State.mapInst_i00 (f : Inst → Inst) : (s.mapInst f).i00 = f s.i00 := rfl
@[simp] theorem State.mapInst_i01 (f : Inst → Inst) : (s.mapInst f).i01 = f s.i01 := rfl
@[simp] theorem State.mapInst_i10 (f : Inst → Inst) : (s.mapInst f).i10 = f s.i10 := rfl
@[simp] theorem State.mapInst_i11 (f : Inst → Inst) : (s.mapInst f).i11 = f s.i11 := rfl
@[simp] theorem State.mapInst_mem (f : Inst → Inst) : (s.mapInst f).mem = s.mem := rfl
@[simp] theorem State.mapInst_host (f : Inst → Inst) : (s.mapInst f).host = s.host := rfl
@[simp] theorem State.mapInst_control (f : Inst → Inst) : (s.mapInst f).control = s.control := rfl
@[simp] theorem State.mapInst_reads (f : Inst → Inst) : (s.mapInst f).reads = s.reads := rfl
@[simp] theorem State.inst_mapInst (f : Inst → Inst) (ch : Channel) (st : Stage) : (s.mapInst f).inst ch st = f (s.inst ch st) := by
  cases ch <;> cases st <;> rfl

/-! ## A buffer word written -/

@[simp] theorem State.bufWrite_cfg (ch : Channel) (i : Nat) (v : Word) : (s.bufWrite ch i v).cfg = s.cfg := by
  unfold State.bufWrite; split <;> rfl
@[simp] theorem State.bufWrite_err (ch : Channel) (i : Nat) (v : Word) : (s.bufWrite ch i v).err = s.err := by
  unfold State.bufWrite; split <;> rfl
@[simp] theorem State.bufWrite_ctrl (ch : Channel) (i : Nat) (v : Word) : (s.bufWrite ch i v).ctrl = s.ctrl := by
  unfold State.bufWrite; split <;> rfl
@[simp] theorem State.bufWrite_blockLen (ch : Channel) (i : Nat) (v : Word) : (s.bufWrite ch i v).blockLen = s.blockLen := by
  unfold State.bufWrite; split <;> rfl
@[simp] theorem State.bufWrite_eng (ch : Channel) (i : Nat) (v : Word) : (s.bufWrite ch i v).eng = s.eng := by
  unfold State.bufWrite; split <;> rfl
@[simp] theorem State.bufWrite_s1 (ch : Channel) (i : Nat) (v : Word) : (s.bufWrite ch i v).s1 = s.s1 := by
  unfold State.bufWrite; split <;> rfl
@[simp] theorem State.bufWrite_s2 (ch : Channel) (i : Nat) (v : Word) : (s.bufWrite ch i v).s2 = s.s2 := by
  unfold State.bufWrite; split <;> rfl
@[simp] theorem State.bufWrite_a0 (ch : Channel) (i : Nat) (v : Word) : (s.bufWrite ch i v).a0 = s.a0 := by
  unfold State.bufWrite; split <;> rfl
@[simp] theorem State.bufWrite_a1 (ch : Channel) (i : Nat) (v : Word) : (s.bufWrite ch i v).a1 = s.a1 := by
  unfold State.bufWrite; split <;> rfl
@[simp] theorem State.bufWrite_a2 (ch : Channel) (i : Nat) (v : Word) : (s.bufWrite ch i v).a2 = s.a2 := by
  unfold State.bufWrite; split <;> rfl
@[simp] theorem State.bufWrite_a3 (ch : Channel) (i : Nat) (v : Word) : (s.bufWrite ch i v).a3 = s.a3 := by
  unfold State.bufWrite; split <;> rfl
@[simp] theorem State.bufWrite_a4 (ch : Channel) (i : Nat) (v : Word) : (s.bufWrite ch i v).a4 = s.a4 := by
  unfold State.bufWrite; split <;> rfl
@[simp] theorem State.bufWrite_a5 (ch : Channel) (i : Nat) (v : Word) : (s.bufWrite ch i v).a5 = s.a5 := by
  unfold State.bufWrite; split <;> rfl
@[simp] theorem State.bufWrite_result (ch : Channel) (i : Nat) (v : Word) : (s.bufWrite ch i v).result = s.result := by
  unfold State.bufWrite; split <;> rfl
@[simp] theorem State.bufWrite_i00 (ch : Channel) (i : Nat) (v : Word) : (s.bufWrite ch i v).i00 = s.i00 := by
  unfold State.bufWrite; split <;> rfl
@[simp] theorem State.bufWrite_i01 (ch : Channel) (i : Nat) (v : Word) : (s.bufWrite ch i v).i01 = s.i01 := by
  unfold State.bufWrite; split <;> rfl
@[simp] theorem State.bufWrite_i10 (ch : Channel) (i : Nat) (v : Word) : (s.bufWrite ch i v).i10 = s.i10 := by
  unfold State.bufWrite; split <;> rfl
@[simp] theorem State.bufWrite_i11 (ch : Channel) (i : Nat) (v : Word) : (s.bufWrite ch i v).i11 = s.i11 := by
  unfold State.bufWrite; split <;> rfl
@[simp] theorem State.bufWrite_host (ch : Channel) (i : Nat) (v : Word) : (s.bufWrite ch i v).host = s.host := by
  unfold State.bufWrite; split <;> rfl
@[simp] theorem State.bufWrite_control (ch : Channel) (i : Nat) (v : Word) : (s.bufWrite ch i v).control = s.control := by
  unfold State.bufWrite; split <;> rfl
@[simp] theorem State.bufWrite_reads (ch : Channel) (i : Nat) (v : Word) : (s.bufWrite ch i v).reads = s.reads := by
  unfold State.bufWrite; split <;> rfl
@[simp] theorem State.inst_bufWrite (ch' : Channel) (i : Nat) (v : Word) (ch : Channel) (st : Stage) :
    (s.bufWrite ch' i v).inst ch st = s.inst ch st := by
  unfold State.bufWrite; split <;> cases ch <;> cases st <;> rfl

/-! ## A fault taken (R272) -/

@[simp] theorem raiseFault_cfg (code : FaultCode) : (raiseFault code s).cfg = s.cfg := by
  unfold raiseFault; split <;> rfl
@[simp] theorem raiseFault_ctrl (code : FaultCode) : (raiseFault code s).ctrl = s.ctrl := by
  unfold raiseFault; split <;> rfl
@[simp] theorem raiseFault_blockLen (code : FaultCode) : (raiseFault code s).blockLen = s.blockLen := by
  unfold raiseFault; split <;> rfl
@[simp] theorem raiseFault_eng (code : FaultCode) : (raiseFault code s).eng = s.eng := by
  unfold raiseFault; split <;> rfl
@[simp] theorem raiseFault_s1 (code : FaultCode) : (raiseFault code s).s1 = s.s1 := by
  unfold raiseFault; split <;> rfl
@[simp] theorem raiseFault_s2 (code : FaultCode) : (raiseFault code s).s2 = s.s2 := by
  unfold raiseFault; split <;> rfl
@[simp] theorem raiseFault_a0 (code : FaultCode) : (raiseFault code s).a0 = s.a0 := by
  unfold raiseFault; split <;> rfl
@[simp] theorem raiseFault_a1 (code : FaultCode) : (raiseFault code s).a1 = s.a1 := by
  unfold raiseFault; split <;> rfl
@[simp] theorem raiseFault_a2 (code : FaultCode) : (raiseFault code s).a2 = s.a2 := by
  unfold raiseFault; split <;> rfl
@[simp] theorem raiseFault_a3 (code : FaultCode) : (raiseFault code s).a3 = s.a3 := by
  unfold raiseFault; split <;> rfl
@[simp] theorem raiseFault_a4 (code : FaultCode) : (raiseFault code s).a4 = s.a4 := by
  unfold raiseFault; split <;> rfl
@[simp] theorem raiseFault_a5 (code : FaultCode) : (raiseFault code s).a5 = s.a5 := by
  unfold raiseFault; split <;> rfl
@[simp] theorem raiseFault_result (code : FaultCode) : (raiseFault code s).result = s.result := by
  unfold raiseFault; split <;> rfl
@[simp] theorem raiseFault_i00 (code : FaultCode) : (raiseFault code s).i00 = s.i00 := by
  unfold raiseFault; split <;> rfl
@[simp] theorem raiseFault_i01 (code : FaultCode) : (raiseFault code s).i01 = s.i01 := by
  unfold raiseFault; split <;> rfl
@[simp] theorem raiseFault_i10 (code : FaultCode) : (raiseFault code s).i10 = s.i10 := by
  unfold raiseFault; split <;> rfl
@[simp] theorem raiseFault_i11 (code : FaultCode) : (raiseFault code s).i11 = s.i11 := by
  unfold raiseFault; split <;> rfl
@[simp] theorem raiseFault_mem (code : FaultCode) : (raiseFault code s).mem = s.mem := by
  unfold raiseFault; split <;> rfl
@[simp] theorem raiseFault_host (code : FaultCode) : (raiseFault code s).host = s.host := by
  unfold raiseFault; split <;> rfl
@[simp] theorem raiseFault_control (code : FaultCode) : (raiseFault code s).control = s.control := by
  unfold raiseFault; split <;> rfl
@[simp] theorem raiseFault_reads (code : FaultCode) : (raiseFault code s).reads = s.reads := by
  unfold raiseFault; split <;> rfl
@[simp] theorem inst_raiseFault (code : FaultCode) (ch : Channel) (st : Stage) :
    (raiseFault code s).inst ch st = s.inst ch st := by
  unfold raiseFault; split <;> cases ch <;> cases st <;> rfl
theorem raiseFault_err (code : FaultCode) : (raiseFault code s).err = if s.err = 0#4 then code.number else s.err := by
  unfold raiseFault; split <;> rfl
/-- Everything taking a fault can do: ERR keeps the first fault, nothing else changes. -/
theorem raiseFault_eq (code : FaultCode) :
    raiseFault code s = { s with err := if s.err = 0#4 then code.number else s.err } := by
  unfold raiseFault; split <;> rfl

/-! ## CTRL writes inside a command (R70) -/

@[simp] theorem State.controlArrivals_cfg (k : Nat) : (s.controlArrivals k).cfg = s.cfg := rfl
@[simp] theorem State.controlArrivals_err (k : Nat) : (s.controlArrivals k).err = s.err := rfl
@[simp] theorem State.controlArrivals_blockLen (k : Nat) : (s.controlArrivals k).blockLen = s.blockLen := rfl
@[simp] theorem State.controlArrivals_eng (k : Nat) : (s.controlArrivals k).eng = s.eng := rfl
@[simp] theorem State.controlArrivals_s1 (k : Nat) : (s.controlArrivals k).s1 = s.s1 := rfl
@[simp] theorem State.controlArrivals_s2 (k : Nat) : (s.controlArrivals k).s2 = s.s2 := rfl
@[simp] theorem State.controlArrivals_a0 (k : Nat) : (s.controlArrivals k).a0 = s.a0 := rfl
@[simp] theorem State.controlArrivals_a1 (k : Nat) : (s.controlArrivals k).a1 = s.a1 := rfl
@[simp] theorem State.controlArrivals_a2 (k : Nat) : (s.controlArrivals k).a2 = s.a2 := rfl
@[simp] theorem State.controlArrivals_a3 (k : Nat) : (s.controlArrivals k).a3 = s.a3 := rfl
@[simp] theorem State.controlArrivals_a4 (k : Nat) : (s.controlArrivals k).a4 = s.a4 := rfl
@[simp] theorem State.controlArrivals_a5 (k : Nat) : (s.controlArrivals k).a5 = s.a5 := rfl
@[simp] theorem State.controlArrivals_result (k : Nat) : (s.controlArrivals k).result = s.result := rfl
@[simp] theorem State.controlArrivals_i00 (k : Nat) : (s.controlArrivals k).i00 = s.i00 := rfl
@[simp] theorem State.controlArrivals_i01 (k : Nat) : (s.controlArrivals k).i01 = s.i01 := rfl
@[simp] theorem State.controlArrivals_i10 (k : Nat) : (s.controlArrivals k).i10 = s.i10 := rfl
@[simp] theorem State.controlArrivals_i11 (k : Nat) : (s.controlArrivals k).i11 = s.i11 := rfl
@[simp] theorem State.controlArrivals_mem (k : Nat) : (s.controlArrivals k).mem = s.mem := rfl
@[simp] theorem State.controlArrivals_host (k : Nat) : (s.controlArrivals k).host = s.host := rfl
@[simp] theorem State.controlArrivals_reads (k : Nat) : (s.controlArrivals k).reads = s.reads := rfl
@[simp] theorem State.inst_controlArrivals (k : Nat) (ch : Channel) (st : Stage) : (s.controlArrivals k).inst ch st = s.inst ch st := by
  cases ch <;> cases st <;> rfl
@[simp] theorem State.endCommand_cfg : s.endCommand.cfg = s.cfg := rfl
@[simp] theorem State.endCommand_err : s.endCommand.err = s.err := rfl
@[simp] theorem State.endCommand_blockLen : s.endCommand.blockLen = s.blockLen := rfl
@[simp] theorem State.endCommand_eng : s.endCommand.eng = s.eng := rfl
@[simp] theorem State.endCommand_s1 : s.endCommand.s1 = s.s1 := rfl
@[simp] theorem State.endCommand_s2 : s.endCommand.s2 = s.s2 := rfl
@[simp] theorem State.endCommand_a0 : s.endCommand.a0 = s.a0 := rfl
@[simp] theorem State.endCommand_a1 : s.endCommand.a1 = s.a1 := rfl
@[simp] theorem State.endCommand_a2 : s.endCommand.a2 = s.a2 := rfl
@[simp] theorem State.endCommand_a3 : s.endCommand.a3 = s.a3 := rfl
@[simp] theorem State.endCommand_a4 : s.endCommand.a4 = s.a4 := rfl
@[simp] theorem State.endCommand_a5 : s.endCommand.a5 = s.a5 := rfl
@[simp] theorem State.endCommand_result : s.endCommand.result = s.result := rfl
@[simp] theorem State.endCommand_i00 : s.endCommand.i00 = s.i00 := rfl
@[simp] theorem State.endCommand_i01 : s.endCommand.i01 = s.i01 := rfl
@[simp] theorem State.endCommand_i10 : s.endCommand.i10 = s.i10 := rfl
@[simp] theorem State.endCommand_i11 : s.endCommand.i11 = s.i11 := rfl
@[simp] theorem State.endCommand_mem : s.endCommand.mem = s.mem := rfl
@[simp] theorem State.endCommand_host : s.endCommand.host = s.host := rfl
@[simp] theorem State.endCommand_reads : s.endCommand.reads = s.reads := rfl
@[simp] theorem State.endCommand_control : s.endCommand.control = [] := rfl
@[simp] theorem State.endCommand_ctrl : s.endCommand.ctrl = lastControl s.control s.ctrl := rfl
@[simp] theorem State.inst_endCommand (ch : Channel) (st : Stage) : s.endCommand.inst ch st = s.inst ch st := by
  cases ch <;> cases st <;> rfl

end Sys2Proof.Machine
end

