-- ==== Sys2Proof/Laws/Memory.lean ====
section
/-! SUPPORT. The laws of cell contents and of the sample buffers: what is read after a write, and that every memory operation keeps the canonical form. -/

namespace Sys2Proof.Machine

/-! ## Cells -/

theorem cellsFrom_mono {n : Nat} {lo lo' : Nat} (h : lo ≤ lo') :
    ∀ {m : List (Nat × BitVec n)}, cellsFrom lo' m = true → cellsFrom lo m = true
  | [], _ => rfl
  | (k, x) :: m, hm => by
    simp only [cellsFrom, Bool.and_eq_true, decide_eq_true_eq] at hm ⊢
    exact ⟨⟨by omega, hm.1.2⟩, hm.2⟩

/-- A cell below every listed address holds 0. -/
theorem cellGet_below {n : Nat} {lo a : Nat} (h : a < lo) :
    ∀ {m : List (Nat × BitVec n)}, cellsFrom lo m = true → cellGet m a = 0
  | [], _ => rfl
  | (k, x) :: m, hm => by
    simp only [cellsFrom, Bool.and_eq_true, decide_eq_true_eq] at hm
    have hk : k ≠ a := by omega
    simp only [cellGet, hk, if_false]
    exact cellGet_below (lo := k + 1) (by omega) hm.2

/-- Setting a cell keeps the canonical form. -/
theorem cellsFrom_cellSet {n : Nat} {lo a : Nat} (v : BitVec n) (ha : lo ≤ a) :
    ∀ {m : List (Nat × BitVec n)}, cellsFrom lo m = true → cellsFrom lo (cellSet m a v) = true
  | [], _ => by
    unfold cellSet
    split
    · rfl
    · simp_all [cellsFrom]
  | (k, x) :: m, hm => by
    simp only [cellsFrom, Bool.and_eq_true, decide_eq_true_eq] at hm
    unfold cellSet
    split_ifs with h1 h2 h3 h4
    · simpa [cellsFrom] using hm
    · have : cellsFrom (a + 1) ((k, x) :: m) = true := by
        simp only [cellsFrom, Bool.and_eq_true, decide_eq_true_eq]
        exact ⟨⟨by omega, hm.1.2⟩, hm.2⟩
      simp_all [cellsFrom]
    · exact cellsFrom_mono (by omega) hm.2
    · subst h3
      simp_all [cellsFrom]
    · have := cellsFrom_cellSet v (lo := k + 1) (a := a) (by omega) hm.2
      simp_all [cellsFrom]

theorem cellsWf_cellSet {n : Nat} {m : List (Nat × BitVec n)} (a : Nat) (v : BitVec n)
    (h : cellsWf m = true) : cellsWf (cellSet m a v) = true :=
  cellsFrom_cellSet v (Nat.zero_le a) h

/-- Reading a cell after setting one, in canonical contents. -/
theorem cellGet_cellSet_from {n : Nat} {lo a : Nat} (v : BitVec n) (b : Nat) :
    ∀ {m : List (Nat × BitVec n)}, cellsFrom lo m = true →
      cellGet (cellSet m a v) b = if a = b then v else cellGet m b
  | [], _ => by
    unfold cellSet
    split_ifs <;> simp_all [cellGet]
  | (k, x) :: m, hm => by
    simp only [cellsFrom, Bool.and_eq_true, decide_eq_true_eq] at hm
    unfold cellSet
    split_ifs with h1 h2 h3 h4 h5 h6 h7 h8
    · subst h3
      have : cellGet ((k, x) :: m) a = 0 :=
        cellGet_below (lo := k) (by omega) (by simpa [cellsFrom] using And.intro (by simpa using hm.1.2) hm.2)
      rw [this, h2]
    · rfl
    · simp [cellGet, h4]
    · simp [cellGet, h4]
    · subst h5 h7
      rw [h6]
      exact cellGet_below (lo := a + 1) (by omega) hm.2
    · subst h5
      simp [cellGet, h7]
    · simp [cellGet, h8]
    · subst h5
      simp [cellGet, h8]
    · rename_i h9
      subst h9
      have hk : k ≠ a := by omega
      simp only [cellGet, hk, if_false]
      rw [cellGet_cellSet_from v a (lo := k + 1) hm.2]
      simp
    · rename_i h9
      simp only [cellGet]
      split
      · rfl
      · rw [cellGet_cellSet_from v b (lo := k + 1) hm.2]
        simp [h9]

/-- Reading a cell after setting one: the value set, and every other cell as before. -/
theorem cellGet_cellSet {n : Nat} {m : List (Nat × BitVec n)} (a b : Nat) (v : BitVec n)
    (h : cellsWf m = true) : cellGet (cellSet m a v) b = if a = b then v else cellGet m b :=
  cellGet_cellSet_from v b h

/-- Canonical contents that read alike are equal. -/
theorem cells_ext_from {n : Nat} : ∀ {lo : Nat} {m m' : List (Nat × BitVec n)},
    cellsFrom lo m = true → cellsFrom lo m' = true → (∀ a, cellGet m a = cellGet m' a) → m = m'
  | _, [], [], _, _, _ => rfl
  | _, [], (k, x) :: m', _, h', he => by
    simp only [cellsFrom, Bool.and_eq_true, bne_iff_ne] at h'
    have := he k
    simp [cellGet] at this
    exact absurd this.symm h'.1.2
  | _, (k, x) :: m, [], h, _, he => by
    simp only [cellsFrom, Bool.and_eq_true, bne_iff_ne] at h
    have := he k
    simp [cellGet] at this
    exact absurd this h.1.2
  | lo, (k, x) :: m, (k', x') :: m', h, h', he => by
    simp only [cellsFrom, Bool.and_eq_true, bne_iff_ne, decide_eq_true_eq] at h h'
    have hk : k = k' := by
      rcases Nat.lt_trichotomy k k' with hlt | heq | hgt
      · have h1 := he k
        have h0 : cellGet ((k', x') :: m') k = 0 :=
          cellGet_below (lo := k') hlt (by simpa [cellsFrom] using ⟨h'.1.2, h'.2⟩)
        rw [h0] at h1
        simp [cellGet] at h1
        exact absurd h1 h.1.2
      · exact heq
      · have h1 := he k'
        have h0 : cellGet ((k, x) :: m) k' = 0 :=
          cellGet_below (lo := k) hgt (by simpa [cellsFrom] using ⟨h.1.2, h.2⟩)
        rw [h0] at h1
        simp [cellGet] at h1
        exact absurd h1.symm h'.1.2
    subst hk
    have hx : x = x' := by simpa [cellGet] using he k
    subst hx
    have hm : m = m' := cells_ext_from h.2 h'.2 fun a => by
      by_cases ha : k = a
      · subst ha
        rw [cellGet_below (lo := k + 1) (by omega) h.2, cellGet_below (lo := k + 1) (by omega) h'.2]
      · simpa [cellGet, ha] using he a
    rw [hm]

theorem cells_ext {n : Nat} {m m' : List (Nat × BitVec n)} (h : cellsWf m = true)
    (h' : cellsWf m' = true) (he : ∀ a, cellGet m a = cellGet m' a) : m = m' :=
  cells_ext_from h h' he

/-! ## Words of the sample buffers -/

theorem setWordAt_wf {m : List Host.Cell} (a : Nat) (v : Word) (h : Memory.wf m = true) :
    Memory.wf (setWordAt m a v) = true :=
  cellsWf_cellSet _ _ (cellsWf_cellSet _ _ (cellsWf_cellSet _ _ (cellsWf_cellSet _ _ h)))

/-- The bytes after a word is stored: its four bytes, little-endian, and every other byte as before. -/
theorem cellGet_setWordAt {m : List Host.Cell} (a b : Nat) (v : Word) (h : Memory.wf m = true) :
    cellGet (setWordAt m a v) b =
      if a + 3 = b then v.extractLsb' 24 8
      else if a + 2 = b then v.extractLsb' 16 8
      else if a + 1 = b then v.extractLsb' 8 8
      else if a = b then v.extractLsb' 0 8
      else cellGet m b := by
  have h0 : cellsWf m = true := h
  have h1 := cellsWf_cellSet a (v.extractLsb' 0 8) h0
  have h2 := cellsWf_cellSet (a + 1) (v.extractLsb' 8 8) h1
  have h3 := cellsWf_cellSet (a + 2) (v.extractLsb' 16 8) h2
  unfold setWordAt
  rw [cellGet_cellSet _ _ _ h3, cellGet_cellSet _ _ _ h2, cellGet_cellSet _ _ _ h1,
    cellGet_cellSet _ _ _ h0]

theorem bytes_of_word (v : Word) :
    v.extractLsb' 24 8 ++ v.extractLsb' 16 8 ++ v.extractLsb' 8 8 ++ v.extractLsb' 0 8 = v := by
  apply BitVec.eq_of_getLsbD_eq
  intro i hi
  simp only [BitVec.getLsbD_append, BitVec.getLsbD_extractLsb']
  grind

/-- The word stored is read back. -/
theorem wordAt_setWordAt_same {m : List Host.Cell} (a : Nat) (v : Word) (h : Memory.wf m = true) :
    wordAt (setWordAt m a v) a = v := by
  unfold wordAt
  simp only [cellGet_setWordAt _ _ _ h]
  simpa using bytes_of_word v

/-- A word that shares no byte with the one stored reads as before. -/
theorem wordAt_setWordAt_other {m : List Host.Cell} (a b : Nat) (v : Word) (h : Memory.wf m = true)
    (hab : a + 4 ≤ b ∨ b + 4 ≤ a) : wordAt (setWordAt m a v) b = wordAt m b := by
  unfold wordAt
  simp only [cellGet_setWordAt _ _ _ h]
  have e : ∀ i j : Nat, i < 4 → j < 4 → a + i ≠ b + j := fun i j _ _ => by omega
  have h00 := e 0 0; have h01 := e 0 1; have h02 := e 0 2; have h03 := e 0 3
  have h10 := e 1 0; have h11 := e 1 1; have h12 := e 1 2; have h13 := e 1 3
  have h20 := e 2 0; have h21 := e 2 1; have h22 := e 2 2; have h23 := e 2 3
  have h30 := e 3 0; have h31 := e 3 1; have h32 := e 3 2; have h33 := e 3 3
  simp at h00 h01 h02 h03 h10 h11 h12 h13 h20 h21 h22 h23 h30 h31 h32 h33
  simp [*]

/-- A buffer write keeps the canonical form. -/
theorem bufWrite_wf (s : State) (ch : Channel) (i : Nat) (v : Word) (h : Memory.wf s.mem = true) :
    Memory.wf (s.bufWrite ch i v).mem = true := by
  unfold State.bufWrite
  split
  · exact setWordAt_wf _ _ h
  · exact h

/-- A buffer word reads as the word last written to it; every other one as before. -/
theorem bufRead_bufWrite (s : State) (ch ch' : Channel) (i j : Nat) (v : Word)
    (h : Memory.wf s.mem = true) (hi : i < s.cfg.bufWords) (hb : s.cfg.bufWords ≤ 16384) :
    (s.bufWrite ch i v).bufRead ch' j = if ch' = ch ∧ j = i then v else s.bufRead ch' j := by
  unfold State.bufRead
  simp only [State.bufWrite_cfg]
  split_ifs with h1 h2 h3
  · obtain ⟨rfl, rfl⟩ := h2
    simp [State.bufWrite, hi, wordAt_setWordAt_same _ _ h]
  · simp only [State.bufWrite, hi, if_true]
    apply wordAt_setWordAt_other _ _ _ h
    unfold bufOffset bufBase
    rcases ch with _ | _ <;> rcases ch' with _ | _ <;> simp at h2 ⊢ <;> omega
  · omega
  · rfl

/-- The bytes after a buffer write: every byte outside the word's four is as before. -/
theorem readByte_bufWrite_other (s : State) (ch : Channel) (i : Nat) (v : Word) (a : Nat)
    (h : Memory.wf s.mem = true) (ha : a < bufOffset ch i ∨ bufOffset ch i + 4 ≤ a) :
    (s.bufWrite ch i v).readByte a = s.readByte a := by
  unfold State.bufWrite State.readByte
  split
  · simp only [cellGet_setWordAt _ _ _ h]
    split_ifs <;> first | rfl | omega
  · rfl

end Sys2Proof.Machine
end

