-- ==== Sys2Proof/Laws/Ops.lean ====
section
/-! SUPPORT. One lemma per shared operation that says once what it can do, for later proofs to cite instead of unfolding it. -/

namespace Sys2Proof.Machine

/-! ## Instance commands -/

/-- Everything an instance command can do: pass its input through before PREPARE, take the NaN fault, or run its module function on its own instance and write RESULT. -/
theorem instanceCommand_cases (ch : Channel) (st : Stage) (used : List Param) (f : Inst → Inst × F32)
    (s : State) :
    (s.eng.prep = false ∧ instanceCommand ch st used f s = s.setResult s.a0) ∨
    (s.eng.prep = true ∧ s.nanIn st used = true ∧
      instanceCommand ch st used f s = raiseFault .nanParameter s) ∨
    (s.eng.prep = true ∧ s.nanIn st used = false ∧
      instanceCommand ch st used f s =
        (s.setInst ch st (f (s.inst ch st)).1).setResult (f (s.inst ch st)).2) := by
  unfold instanceCommand
  cases hp : s.eng.prep <;> cases hn : s.nanIn st used <;> simp

/-- An instance command that runs. -/
theorem instanceCommand_run (ch : Channel) (st : Stage) (used : List Param) (f : Inst → Inst × F32)
    (s : State) (hp : s.eng.prep = true) (hn : s.nanIn st used = false) :
    instanceCommand ch st used f s =
      (s.setInst ch st (f (s.inst ch st)).1).setResult (f (s.inst ch st)).2 := by
  simp [instanceCommand, hp, hn]

@[simp] theorem instanceCommand_cfg (ch : Channel) (st : Stage) (used : List Param)
    (f : Inst → Inst × F32) (s : State) : (instanceCommand ch st used f s).cfg = s.cfg := by
  unfold instanceCommand; split_ifs <;> simp
@[simp] theorem instanceCommand_ctrl (ch : Channel) (st : Stage) (used : List Param)
    (f : Inst → Inst × F32) (s : State) : (instanceCommand ch st used f s).ctrl = s.ctrl := by
  unfold instanceCommand; split_ifs <;> simp
@[simp] theorem instanceCommand_blockLen (ch : Channel) (st : Stage) (used : List Param)
    (f : Inst → Inst × F32) (s : State) : (instanceCommand ch st used f s).blockLen = s.blockLen := by
  unfold instanceCommand; split_ifs <;> simp
@[simp] theorem instanceCommand_eng (ch : Channel) (st : Stage) (used : List Param)
    (f : Inst → Inst × F32) (s : State) : (instanceCommand ch st used f s).eng = s.eng := by
  unfold instanceCommand; split_ifs <;> simp
@[simp] theorem instanceCommand_s1 (ch : Channel) (st : Stage) (used : List Param)
    (f : Inst → Inst × F32) (s : State) : (instanceCommand ch st used f s).s1 = s.s1 := by
  unfold instanceCommand; split_ifs <;> simp
@[simp] theorem instanceCommand_s2 (ch : Channel) (st : Stage) (used : List Param)
    (f : Inst → Inst × F32) (s : State) : (instanceCommand ch st used f s).s2 = s.s2 := by
  unfold instanceCommand; split_ifs <;> simp
@[simp] theorem instanceCommand_a0 (ch : Channel) (st : Stage) (used : List Param)
    (f : Inst → Inst × F32) (s : State) : (instanceCommand ch st used f s).a0 = s.a0 := by
  unfold instanceCommand; split_ifs <;> simp
@[simp] theorem instanceCommand_a1 (ch : Channel) (st : Stage) (used : List Param)
    (f : Inst → Inst × F32) (s : State) : (instanceCommand ch st used f s).a1 = s.a1 := by
  unfold instanceCommand; split_ifs <;> simp
@[simp] theorem instanceCommand_a2 (ch : Channel) (st : Stage) (used : List Param)
    (f : Inst → Inst × F32) (s : State) : (instanceCommand ch st used f s).a2 = s.a2 := by
  unfold instanceCommand; split_ifs <;> simp
@[simp] theorem instanceCommand_a3 (ch : Channel) (st : Stage) (used : List Param)
    (f : Inst → Inst × F32) (s : State) : (instanceCommand ch st used f s).a3 = s.a3 := by
  unfold instanceCommand; split_ifs <;> simp
@[simp] theorem instanceCommand_a4 (ch : Channel) (st : Stage) (used : List Param)
    (f : Inst → Inst × F32) (s : State) : (instanceCommand ch st used f s).a4 = s.a4 := by
  unfold instanceCommand; split_ifs <;> simp
@[simp] theorem instanceCommand_a5 (ch : Channel) (st : Stage) (used : List Param)
    (f : Inst → Inst × F32) (s : State) : (instanceCommand ch st used f s).a5 = s.a5 := by
  unfold instanceCommand; split_ifs <;> simp
@[simp] theorem instanceCommand_host (ch : Channel) (st : Stage) (used : List Param)
    (f : Inst → Inst × F32) (s : State) : (instanceCommand ch st used f s).host = s.host := by
  unfold instanceCommand; split_ifs <;> simp
@[simp] theorem instanceCommand_control (ch : Channel) (st : Stage) (used : List Param)
    (f : Inst → Inst × F32) (s : State) : (instanceCommand ch st used f s).control = s.control := by
  unfold instanceCommand; split_ifs <;> simp
@[simp] theorem instanceCommand_reads (ch : Channel) (st : Stage) (used : List Param)
    (f : Inst → Inst × F32) (s : State) : (instanceCommand ch st used f s).reads = s.reads := by
  unfold instanceCommand; split_ifs <;> simp
@[simp] theorem instanceCommand_mem (ch : Channel) (st : Stage) (used : List Param)
    (f : Inst → Inst × F32) (s : State) : (instanceCommand ch st used f s).mem = s.mem := by
  unfold instanceCommand; split_ifs <;> simp

/-- The instances after an instance command: its own one is as before or what the module function makes of it, every other one is as before (R31). -/
theorem inst_instanceCommand (ch ch' : Channel) (st st' : Stage) (used : List Param)
    (f : Inst → Inst × F32) (s : State) :
    (instanceCommand ch st used f s).inst ch' st' = s.inst ch' st' ∨
    (ch' = ch ∧ st' = st ∧ (instanceCommand ch st used f s).inst ch' st' = (f (s.inst ch st)).1) := by
  rcases instanceCommand_cases ch st used f s with ⟨_, h⟩ | ⟨_, _, h⟩ | ⟨_, _, h⟩
  · left; rw [h]; simp
  · left; rw [h]; simp
  · rw [h]
    by_cases hc : ch' = ch ∧ st' = st
    · right; obtain ⟨rfl, rfl⟩ := hc; simp
    · left; simp [State.inst_setInst, hc]

/-! ## The module functions on an instance: each changes its own unit only (R14, R31) -/

@[simp] theorem delayInst_cmp (c : Cfg) (g : Engine) (x delayMs fbPct : F32) (I : Inst) : (delayInst c g x delayMs fbPct I).1.cmp = I.cmp := rfl
@[simp] theorem delayInst_bbd (c : Cfg) (g : Engine) (x delayMs fbPct : F32) (I : Inst) : (delayInst c g x delayMs fbPct I).1.bbd = I.bbd := rfl
@[simp] theorem delayInst_flt (c : Cfg) (g : Engine) (x delayMs fbPct : F32) (I : Inst) : (delayInst c g x delayMs fbPct I).1.flt = I.flt := rfl
@[simp] theorem delayInst_mix (c : Cfg) (g : Engine) (x delayMs fbPct : F32) (I : Inst) : (delayInst c g x delayMs fbPct I).1.mix = I.mix := rfl
@[simp] theorem delayInst_noise (c : Cfg) (g : Engine) (x delayMs fbPct : F32) (I : Inst) : (delayInst c g x delayMs fbPct I).1.noise = I.noise := rfl

@[simp] theorem compressF_dly (c : Cfg) (g : Engine) (x : F32) (I : Inst) : (compressF c g x I).1.dly = I.dly := rfl
@[simp] theorem compressF_bbd (c : Cfg) (g : Engine) (x : F32) (I : Inst) : (compressF c g x I).1.bbd = I.bbd := rfl
@[simp] theorem compressF_flt (c : Cfg) (g : Engine) (x : F32) (I : Inst) : (compressF c g x I).1.flt = I.flt := rfl
@[simp] theorem compressF_mix (c : Cfg) (g : Engine) (x : F32) (I : Inst) : (compressF c g x I).1.mix = I.mix := rfl
@[simp] theorem compressF_noise (c : Cfg) (g : Engine) (x : F32) (I : Inst) : (compressF c g x I).1.noise = I.noise := rfl

@[simp] theorem expandF_dly (c : Cfg) (g : Engine) (x : F32) (I : Inst) : (expandF c g x I).1.dly = I.dly := rfl
@[simp] theorem expandF_bbd (c : Cfg) (g : Engine) (x : F32) (I : Inst) : (expandF c g x I).1.bbd = I.bbd := rfl
@[simp] theorem expandF_flt (c : Cfg) (g : Engine) (x : F32) (I : Inst) : (expandF c g x I).1.flt = I.flt := rfl
@[simp] theorem expandF_mix (c : Cfg) (g : Engine) (x : F32) (I : Inst) : (expandF c g x I).1.mix = I.mix := rfl
@[simp] theorem expandF_noise (c : Cfg) (g : Engine) (x : F32) (I : Inst) : (expandF c g x I).1.noise = I.noise := rfl

@[simp] theorem bbdInst_dly (c : Cfg) (ch : Channel) (st : Stage) (x delayMs : F32) (I : Inst) : (bbdInst c ch st x delayMs I).1.dly = I.dly := rfl
@[simp] theorem bbdInst_cmp (c : Cfg) (ch : Channel) (st : Stage) (x delayMs : F32) (I : Inst) : (bbdInst c ch st x delayMs I).1.cmp = I.cmp := rfl
@[simp] theorem bbdInst_flt (c : Cfg) (ch : Channel) (st : Stage) (x delayMs : F32) (I : Inst) : (bbdInst c ch st x delayMs I).1.flt = I.flt := rfl
@[simp] theorem bbdInst_mix (c : Cfg) (ch : Channel) (st : Stage) (x delayMs : F32) (I : Inst) : (bbdInst c ch st x delayMs I).1.mix = I.mix := rfl

@[simp] theorem filterInst_dly (c : Cfg) (g : Engine) (x tonePct : F32) (I : Inst) : (filterInst c g x tonePct I).1.dly = I.dly := rfl
@[simp] theorem filterInst_cmp (c : Cfg) (g : Engine) (x tonePct : F32) (I : Inst) : (filterInst c g x tonePct I).1.cmp = I.cmp := rfl
@[simp] theorem filterInst_bbd (c : Cfg) (g : Engine) (x tonePct : F32) (I : Inst) : (filterInst c g x tonePct I).1.bbd = I.bbd := rfl
@[simp] theorem filterInst_mix (c : Cfg) (g : Engine) (x tonePct : F32) (I : Inst) : (filterInst c g x tonePct I).1.mix = I.mix := rfl
@[simp] theorem filterInst_noise (c : Cfg) (g : Engine) (x tonePct : F32) (I : Inst) : (filterInst c g x tonePct I).1.noise = I.noise := rfl

@[simp] theorem mixInst_dly (c : Cfg) (g : Engine) (dry wet mixPct : F32) (I : Inst) : (mixInst c g dry wet mixPct I).1.dly = I.dly := rfl
@[simp] theorem mixInst_cmp (c : Cfg) (g : Engine) (dry wet mixPct : F32) (I : Inst) : (mixInst c g dry wet mixPct I).1.cmp = I.cmp := rfl
@[simp] theorem mixInst_bbd (c : Cfg) (g : Engine) (dry wet mixPct : F32) (I : Inst) : (mixInst c g dry wet mixPct I).1.bbd = I.bbd := rfl
@[simp] theorem mixInst_flt (c : Cfg) (g : Engine) (dry wet mixPct : F32) (I : Inst) : (mixInst c g dry wet mixPct I).1.flt = I.flt := rfl
@[simp] theorem mixInst_noise (c : Cfg) (g : Engine) (dry wet mixPct : F32) (I : Inst) : (mixInst c g dry wet mixPct I).1.noise = I.noise := rfl

@[simp] theorem compressF_envE (c : Cfg) (g : Engine) (x : F32) (I : Inst) : (compressF c g x I).1.cmp.envE = I.cmp.envE := rfl
@[simp] theorem expandF_envC (c : Cfg) (g : Engine) (x : F32) (I : Inst) : (expandF c g x I).1.cmp.envC = I.cmp.envC := rfl

/-- The delay line after a stage is the one DELAY leaves: no other unit touches it. -/
theorem stage_dly (c : Cfg) (g : Engine) (ch : Channel) (st : Stage) (x : F32) (p : StageParams)
    (I : Inst) : (stage c g ch st x p I).1.dly =
      (delay c g I.dly (compressF c g x I).2 p.delayMs p.feedbackPct).1 := rfl

/-- Everything DELAY can do to its delay line: nothing with CAP = 0, else one element written at the write index, which advances modulo CAP. -/
theorem delay_line (c : Cfg) (g : Engine) (d : DelayLine) (x delayMs fbPct : F32) :
    (g.cap = 0 ∧ delay c g d x delayMs fbPct = (d, x)) ∨
    (g.cap ≠ 0 ∧ ∃ v, (isNaN32 v = true ∨ withinOne v = true) ∧
      (delay c g d x delayMs fbPct).1 = ⟨cellSet d.ring d.w v, (d.w + 1) % g.cap⟩) := by
  unfold delay
  by_cases h : g.cap = 0
  · left; simp [h]
  · right
    exact ⟨h, tanhF32 c (fadd c x (feedbackTerm c (feedbackOf c fbPct)
      (ringRead c d.ring g.cap (readPosition c g d.w delayMs)))), tanhF32_bounded c _,
      by simp only [h, if_false]⟩

/-- What FILTER leaves of the coefficients: they and `lastTone` are those of `retune`. -/
theorem filter_coefficients (c : Cfg) (g : Engine) (x tonePct : F32) (f : FilterPair) :
    (filter c g x tonePct f).1.aa = f.aa ∧
    (filter c g x tonePct f).1.tn = (retune c g (fclamp tonePct lit0 lit100) f).tn ∧
    (filter c g x tonePct f).1.lastTone = (retune c g (fclamp tonePct lit0 lit100) f).lastTone := by
  refine ⟨?_, rfl, rfl⟩
  show (retune c g (fclamp tonePct lit0 lit100) f).aa = f.aa
  unfold retune; split <;> rfl

/-! ## CTRL writes inside a command -/

/-- Performing the writes that have arrived and later the rest is performing all of them. -/
theorem lastControl_dueControl (k : Nat) : ∀ (l : List (Nat × Word)) (ctrl : BitVec 2),
    lastControl (dueControl k l ctrl).2 (dueControl k l ctrl).1 = lastControl l ctrl
  | [], _ => rfl
  | (p, v) :: rest, ctrl => by
    unfold dueControl
    split
    · rw [lastControl_dueControl k rest]; rfl
    · rfl

/-! ## The block -/

@[simp] theorem sampleStep_cfg (b : BlockRun) (ch : Channel) (i : Nat) (s : State) : (sampleStep b ch i s).cfg = s.cfg := by
  simp [sampleStep]
@[simp] theorem sampleStep_err (b : BlockRun) (ch : Channel) (i : Nat) (s : State) : (sampleStep b ch i s).err = s.err := by
  simp [sampleStep]
@[simp] theorem sampleStep_blockLen (b : BlockRun) (ch : Channel) (i : Nat) (s : State) : (sampleStep b ch i s).blockLen = s.blockLen := by
  simp [sampleStep]
@[simp] theorem sampleStep_eng (b : BlockRun) (ch : Channel) (i : Nat) (s : State) : (sampleStep b ch i s).eng = s.eng := by
  simp [sampleStep]
@[simp] theorem sampleStep_s1 (b : BlockRun) (ch : Channel) (i : Nat) (s : State) : (sampleStep b ch i s).s1 = s.s1 := by
  simp [sampleStep]
@[simp] theorem sampleStep_s2 (b : BlockRun) (ch : Channel) (i : Nat) (s : State) : (sampleStep b ch i s).s2 = s.s2 := by
  simp [sampleStep]
@[simp] theorem sampleStep_a0 (b : BlockRun) (ch : Channel) (i : Nat) (s : State) : (sampleStep b ch i s).a0 = s.a0 := by
  simp [sampleStep]
@[simp] theorem sampleStep_a1 (b : BlockRun) (ch : Channel) (i : Nat) (s : State) : (sampleStep b ch i s).a1 = s.a1 := by
  simp [sampleStep]
@[simp] theorem sampleStep_a2 (b : BlockRun) (ch : Channel) (i : Nat) (s : State) : (sampleStep b ch i s).a2 = s.a2 := by
  simp [sampleStep]
@[simp] theorem sampleStep_a3 (b : BlockRun) (ch : Channel) (i : Nat) (s : State) : (sampleStep b ch i s).a3 = s.a3 := by
  simp [sampleStep]
@[simp] theorem sampleStep_a4 (b : BlockRun) (ch : Channel) (i : Nat) (s : State) : (sampleStep b ch i s).a4 = s.a4 := by
  simp [sampleStep]
@[simp] theorem sampleStep_a5 (b : BlockRun) (ch : Channel) (i : Nat) (s : State) : (sampleStep b ch i s).a5 = s.a5 := by
  simp [sampleStep]
@[simp] theorem sampleStep_host (b : BlockRun) (ch : Channel) (i : Nat) (s : State) : (sampleStep b ch i s).host = s.host := by
  simp [sampleStep]
@[simp] theorem sampleStep_reads (b : BlockRun) (ch : Channel) (i : Nat) (s : State) : (sampleStep b ch i s).reads = s.reads := by
  simp [sampleStep]
@[simp] theorem sampleStep_result (b : BlockRun) (ch : Channel) (i : Nat) (s : State) : (sampleStep b ch i s).result = s.result := by
  simp [sampleStep]

/-- What every sample keeps, the samples of a channel keep. -/
theorem channelLoop_keeps (P : State → Prop) (b : BlockRun) (ch : Channel)
    (h : ∀ i s, P s → P (sampleStep b ch i s)) :
    ∀ (k i : Nat) (s : State), P s → P (channelLoop b ch k i s)
  | 0, _, _, hs => hs
  | k + 1, i, s, hs => channelLoop_keeps P b ch h k (i + 1) (sampleStep b ch i s) (h i s hs)

/-- A field no sample changes, the samples of a channel do not change. -/
theorem channelLoop_field {α : Type} (F : State → α) (b : BlockRun) (ch : Channel)
    (h : ∀ i s, F (sampleStep b ch i s) = F s) (k i : Nat) (s : State) :
    F (channelLoop b ch k i s) = F s :=
  channelLoop_keeps (fun t => F t = F s) b ch (fun j t ht => (h j t).trans ht) k i s rfl

@[simp] theorem channelLoop_cfg (b : BlockRun) (ch : Channel) (k i : Nat) (s : State) : (channelLoop b ch k i s).cfg = s.cfg :=
  channelLoop_field (·.cfg) b ch (fun j t => sampleStep_cfg b ch j t) k i s
@[simp] theorem channelLoop_err (b : BlockRun) (ch : Channel) (k i : Nat) (s : State) : (channelLoop b ch k i s).err = s.err :=
  channelLoop_field (·.err) b ch (fun j t => sampleStep_err b ch j t) k i s
@[simp] theorem channelLoop_blockLen (b : BlockRun) (ch : Channel) (k i : Nat) (s : State) : (channelLoop b ch k i s).blockLen = s.blockLen :=
  channelLoop_field (·.blockLen) b ch (fun j t => sampleStep_blockLen b ch j t) k i s
@[simp] theorem channelLoop_eng (b : BlockRun) (ch : Channel) (k i : Nat) (s : State) : (channelLoop b ch k i s).eng = s.eng :=
  channelLoop_field (·.eng) b ch (fun j t => sampleStep_eng b ch j t) k i s
@[simp] theorem channelLoop_s1 (b : BlockRun) (ch : Channel) (k i : Nat) (s : State) : (channelLoop b ch k i s).s1 = s.s1 :=
  channelLoop_field (·.s1) b ch (fun j t => sampleStep_s1 b ch j t) k i s
@[simp] theorem channelLoop_s2 (b : BlockRun) (ch : Channel) (k i : Nat) (s : State) : (channelLoop b ch k i s).s2 = s.s2 :=
  channelLoop_field (·.s2) b ch (fun j t => sampleStep_s2 b ch j t) k i s
@[simp] theorem channelLoop_a0 (b : BlockRun) (ch : Channel) (k i : Nat) (s : State) : (channelLoop b ch k i s).a0 = s.a0 :=
  channelLoop_field (·.a0) b ch (fun j t => sampleStep_a0 b ch j t) k i s
@[simp] theorem channelLoop_a1 (b : BlockRun) (ch : Channel) (k i : Nat) (s : State) : (channelLoop b ch k i s).a1 = s.a1 :=
  channelLoop_field (·.a1) b ch (fun j t => sampleStep_a1 b ch j t) k i s
@[simp] theorem channelLoop_a2 (b : BlockRun) (ch : Channel) (k i : Nat) (s : State) : (channelLoop b ch k i s).a2 = s.a2 :=
  channelLoop_field (·.a2) b ch (fun j t => sampleStep_a2 b ch j t) k i s
@[simp] theorem channelLoop_a3 (b : BlockRun) (ch : Channel) (k i : Nat) (s : State) : (channelLoop b ch k i s).a3 = s.a3 :=
  channelLoop_field (·.a3) b ch (fun j t => sampleStep_a3 b ch j t) k i s
@[simp] theorem channelLoop_a4 (b : BlockRun) (ch : Channel) (k i : Nat) (s : State) : (channelLoop b ch k i s).a4 = s.a4 :=
  channelLoop_field (·.a4) b ch (fun j t => sampleStep_a4 b ch j t) k i s
@[simp] theorem channelLoop_a5 (b : BlockRun) (ch : Channel) (k i : Nat) (s : State) : (channelLoop b ch k i s).a5 = s.a5 :=
  channelLoop_field (·.a5) b ch (fun j t => sampleStep_a5 b ch j t) k i s
@[simp] theorem channelLoop_host (b : BlockRun) (ch : Channel) (k i : Nat) (s : State) : (channelLoop b ch k i s).host = s.host :=
  channelLoop_field (·.host) b ch (fun j t => sampleStep_host b ch j t) k i s
@[simp] theorem channelLoop_reads (b : BlockRun) (ch : Channel) (k i : Nat) (s : State) : (channelLoop b ch k i s).reads = s.reads :=
  channelLoop_field (·.reads) b ch (fun j t => sampleStep_reads b ch j t) k i s
@[simp] theorem channelLoop_result (b : BlockRun) (ch : Channel) (k i : Nat) (s : State) : (channelLoop b ch k i s).result = s.result :=
  channelLoop_field (·.result) b ch (fun j t => sampleStep_result b ch j t) k i s

/-- Everything PROCESS_BLOCK can do: one of its two faults, the pass-through before PREPARE, or the samples of both channels. -/
theorem execProcessBlock_cases (s : State) :
    (s.blockLimit < s.blockLen.toNat ∧ execProcessBlock s = .next (raiseFault .badBlockSize s)) ∨
    (s.blockLen.toNat ≤ s.blockLimit ∧ s.eng.prep = false ∧ execProcessBlock s = .next s) ∨
    (s.blockLen.toNat ≤ s.blockLimit ∧ s.eng.prep = true ∧ (s.bypass = false ∧ s.blockNaN = true) ∧
      execProcessBlock s = .next (raiseFault .nanParameter s)) ∨
    (s.blockLen.toNat ≤ s.blockLimit ∧ s.eng.prep = true ∧ (s.bypass = true ∨ s.blockNaN = false) ∧
      execProcessBlock s = .next (channelLoop s.snapshot .right s.snapshot.n 0
        (channelLoop s.snapshot .left s.snapshot.n 0 s))) := by
  unfold execProcessBlock
  by_cases h : s.blockLimit < s.blockLen.toNat
  · simp [h]
  · have h' := Nat.le_of_not_lt h
    cases hp : s.eng.prep <;> cases hb : s.bypass <;> cases hn : s.blockNaN <;> simp [h, h']

/-! ## The mix ratio -/

/-- The two things a mix update can do: the update of R213, or, only where FTZ flushes its product and `mixStop` is `zero`, +0.0. -/
theorem smoothMix_cases (c : Cfg) (g : Engine) (m : F32) (x : MixState) :
    let sm := if x.primed then x.sm else m
    (smoothMix c g m x = fadd c sm (fmul c g.mixc (fsub c m sm))) ∨
    (c.ftz = true ∧ c.mixStop = .zero ∧ decayFlushed c g m sm = true ∧ smoothMix c g m x = lit0) := by
  intro sm
  by_cases h : c.mixStop = .zero ∧ decayFlushed c g m sm = true
  · right
    have hf : c.ftz = true := by
      have := h.2
      simp only [decayFlushed, Bool.and_eq_true] at this
      exact this.1.1
    exact ⟨hf, h.1, h.2, by simp [smoothMix, sm, h.1] at h ⊢; simp [h]⟩
  · left
    have h' : (decide (c.mixStop = .zero) && decayFlushed c g m sm) = false := by
      simpa using h
    simp only [smoothMix]
    exact if_neg (by simpa [sm] using h')

/-- With FTZ false the update is that of R213. -/
theorem smoothMix_of_ftz_false {c : Cfg} (h : c.ftz = false) (g : Engine) (m : F32) (x : MixState) :
    smoothMix c g m x = fadd c (if x.primed then x.sm else m)
      (fmul c g.mixc (fsub c m (if x.primed then x.sm else m))) := by
  simp [smoothMix, decayFlushed, h]

/-! ## The window -/

/-- CAPACITY shows a CAP that fits its register. -/
theorem capacityWord_of_lt {s : State} (h : s.eng.cap < 4294967296) :
    s.capacityWord = BitVec.ofNat 32 s.eng.cap := by
  simp [State.capacityWord, h]

/-! ## The step -/

/-- Everything a step that answers a next state can be. -/
theorem step_next_cases {s t : State} (h : step s = .next t) :
    s.cfg.legal = true ∧
    ((s.host = [] ∧ t = s) ∨
     (∃ addr rest, s.host = .read addr 4 :: rest ∧ inWindow s.cfg addr = true ∧
        t = { s with host := rest, reads := ({ s with host := rest } : State).windowRead (addr - s.cfg.base) :: s.reads }) ∨
     (∃ addr v rest, s.host = .write addr 4 v :: rest ∧ inWindow s.cfg addr = true ∧ addr ≠ s.cfg.base ∧
        t = ({ s with host := rest } : State).windowWrite (addr - s.cfg.base) v) ∨
     (∃ w e rest, s.host = .write s.cfg.base 4 w :: rest ∧ decode w = .error e ∧
        t = (raiseFault (faultOfDecode e) { s with host := rest }).endCommand) ∨
     (∃ w i u rest, s.host = .write s.cfg.base 4 w :: rest ∧ decode w = .ok i ∧
        exec i { s with host := rest } = .next u ∧ t = u.endCommand) ∨
     (∃ rest, s.host = .powerCycle :: rest ∧ t = powerCycle { s with host := rest })) := by
  unfold step stepHost at h
  cases hl : s.cfg.legal
  · simp [hl] at h
  refine ⟨rfl, ?_⟩
  simp only [hl, Bool.not_true, Bool.false_eq_true, if_false] at h
  rcases hh : s.host with _ | ⟨e, rest⟩
  · rw [hh] at h
    left
    simp at h
    exact ⟨rfl, h.symm⟩
  · rw [hh] at h
    right
    simp only at h
    rcases e with ⟨addr, bytes⟩ | ⟨addr, bytes, v⟩ | _
    · left
      simp only [hostEvent, hostAccess] at h
      split_ifs at h with h1 h2
      simp [accessAdmitted] at h1 h2
      simp at h
      obtain ⟨hb, _⟩ := h2
      subst hb
      exact ⟨addr, rest, rfl, h1, h.symm⟩
    · right
      simp only [hostEvent, hostAccess] at h
      split_ifs at h with h1 h2 h3
      · simp [accessAdmitted] at h1 h2
        obtain ⟨hb, _⟩ := h2
        subst hb
        subst h3
        unfold command at h
        rcases hd : decode v with e | i
        · rw [hd] at h
          simp at h
          right; left
          exact ⟨v, e, rest, rfl, hd, h.symm⟩
        · rw [hd] at h
          simp only at h
          rcases he : exec i { s with host := rest } with u | r | r
          · rw [he] at h
            simp at h
            right; right; left
            exact ⟨v, i, u, rest, rfl, hd, he, h.symm⟩
          · rw [he] at h; simp at h
          · rw [he] at h; simp at h
      · simp [accessAdmitted] at h1 h2
        obtain ⟨hb, _⟩ := h2
        subst hb
        simp at h
        left
        exact ⟨addr, v, rest, rfl, h1, h3, h.symm⟩
    · right; right; right; right
      simp [hostEvent] at h
      exact ⟨rest, rfl, h.symm⟩

end Sys2Proof.Machine
end

