-- ==== Sys2Proof/Laws/PerInstr.lean ====
section
/-! SUPPORT. A statement about every instruction as syntax, proved one constructor at a time. -/

namespace Sys2Proof.Laws

/-- The command word of an instruction has no reserved bit set, names an opcode of the map that takes the fields back to the instruction, and has CH and ST clear when the instruction is an engine command (R91, R92, R93). -/
def EncodingFields.Statement (i : Instr) : Prop :=
  fieldRsv (encode i) = 0#22 ∧
  instrOfOpc (fieldOpc (encode i)) (fieldCh (encode i)) (fieldSt (encode i)) = some i ∧
  (i.isEngine = true → fieldStCh (encode i) = 0#2)

theorem EncodingFields.prepare : EncodingFields.Statement .prepare := by
  unfold EncodingFields.Statement; decide

theorem EncodingFields.reset : EncodingFields.Statement .reset := by
  unfold EncodingFields.Statement; decide

theorem EncodingFields.processBlock : EncodingFields.Statement .processBlock := by
  unfold EncodingFields.Statement; decide

theorem EncodingFields.stageSample (ch : Channel) (st : Stage) :
    EncodingFields.Statement (.stageSample ch st) := by
  cases ch <;> cases st <;> (unfold EncodingFields.Statement; decide)

theorem EncodingFields.compress (ch : Channel) (st : Stage) :
    EncodingFields.Statement (.compress ch st) := by
  cases ch <;> cases st <;> (unfold EncodingFields.Statement; decide)

theorem EncodingFields.delaySample (ch : Channel) (st : Stage) :
    EncodingFields.Statement (.delaySample ch st) := by
  cases ch <;> cases st <;> (unfold EncodingFields.Statement; decide)

theorem EncodingFields.bbdSample (ch : Channel) (st : Stage) :
    EncodingFields.Statement (.bbdSample ch st) := by
  cases ch <;> cases st <;> (unfold EncodingFields.Statement; decide)

theorem EncodingFields.expand (ch : Channel) (st : Stage) :
    EncodingFields.Statement (.expand ch st) := by
  cases ch <;> cases st <;> (unfold EncodingFields.Statement; decide)

theorem EncodingFields.filterSample (ch : Channel) (st : Stage) :
    EncodingFields.Statement (.filterSample ch st) := by
  cases ch <;> cases st <;> (unfold EncodingFields.Statement; decide)

theorem EncodingFields.mixSample (ch : Channel) (st : Stage) :
    EncodingFields.Statement (.mixSample ch st) := by
  cases ch <;> cases st <;> (unfold EncodingFields.Statement; decide)

theorem EncodingFields.softclip : EncodingFields.Statement .softclip := by
  unfold EncodingFields.Statement; decide

end Sys2Proof.Laws
end

