-- ==== Sys2Proof/Tests/Slice0.lean ====
section
/-! SUPPORT. Tests: command words written out from the encoding, the well-formedness checks, single steps against the vectors of spec/95_test_vectors.md, and witnesses for the hypotheses of the statements. -/

namespace Sys2Proof.Tests

set_option Elab.async false

open Sys2Proof.Machine

/-! ## Decoding: words from R91, R93, R94 and vector V3 -/

theorem test_decode_engine : decode 0x00000001#32 = .ok .prepare ∧ decode 0x00000002#32 = .ok .reset ∧
    decode 0x00000003#32 = .ok .processBlock ∧ decode 0x00000016#32 = .ok .softclip := by decide
theorem test_decode_stage_sample : decode 0x00000004#32 = .ok (.stageSample .left .one) ∧
    decode 0x00000104#32 = .ok (.stageSample .right .one) ∧
    decode 0x00000204#32 = .ok (.stageSample .left .two) := by decide
theorem test_decode_compress : decode 0x00000310#32 = .ok (.compress .right .two) := by decide
theorem test_decode_delay_sample : decode 0x00000211#32 = .ok (.delaySample .left .two) := by decide
theorem test_decode_bbd_sample : decode 0x00000112#32 = .ok (.bbdSample .right .one) := by decide
theorem test_decode_expand : decode 0x00000213#32 = .ok (.expand .left .two) := by decide
theorem test_decode_filter_sample : decode 0x00000314#32 = .ok (.filterSample .right .two) := by decide
theorem test_decode_mix_sample : decode 0x00000115#32 = .ok (.mixSample .right .one) := by decide
theorem test_decode_illegal_opcode : decode 0x00000000#32 = .error .illegalOpcode ∧
    decode 0x00000005#32 = .error .illegalOpcode ∧ decode 0x0000000F#32 = .error .illegalOpcode ∧
    decode 0x00000017#32 = .error .illegalOpcode ∧ decode 0x000000FF#32 = .error .illegalOpcode ∧
    decode 0x00000405#32 = .error .illegalOpcode := by decide
theorem test_decode_reserved_bits : decode 0x00000401#32 = .error .reservedBits ∧
    decode 0x80000014#32 = .error .reservedBits ∧ decode 0x00000101#32 = .error .reservedBits ∧
    decode 0x00000202#32 = .error .reservedBits ∧ decode 0x00000303#32 = .error .reservedBits ∧
    decode 0x00000116#32 = .error .reservedBits := by decide
theorem test_decode_table_word : decodeTableWord 32 0x310 = some (.compress .right .two) ∧
    decodeTableWord 32 5 = none := by decide

/-! ## Well-formedness: each check refuses an ill-formed term. `Instr.wellFormed` has no ill-formed term: its fields are enumerations. -/

theorem test_access_width_refused : accessAdmitted 2 0 = false ∧ accessAdmitted 8 0 = false := by decide
theorem test_access_misaligned_refused : accessAdmitted 4 2 = false ∧ accessAdmitted 4 0x10001 = false := by decide
theorem test_access_admitted : accessAdmitted 4 0x2FFFC = true := by decide
theorem test_cfg_no_buffer_refused : ({ Cfg.referenceValues with bufWords := 0 } : Cfg).legal = false := by decide
theorem test_cfg_large_buffer_refused : ({ Cfg.referenceValues with bufWords := 16385 } : Cfg).legal = false := by decide
/-- R6 gives DELAY_RAM_WORDS no bound. -/
theorem test_cfg_large_delay_ram_admitted :
    ({ Cfg.referenceValues with delayRamWords := 16777216 } : Cfg).legal = true := by decide
theorem test_cfg_reference_legal : Cfg.referenceValues.legal = true := by decide

/-! ## Constants: the decimals of R10 and R119 -/

theorem test_literals_f32 :
    lit0 = decimal32 0 1 ∧
    lit0p05 = decimal32 1 20 ∧
    lit0p1 = decimal32 1 10 ∧
    lit0p11 = decimal32 11 100 ∧
    lit0p1848 = decimal32 231 1250 ∧
    lit0p2 = decimal32 1 5 ∧
    lit0p3 = decimal32 3 10 ∧
    lit0p5 = decimal32 1 2 ∧
    lit0p7 = decimal32 7 10 ∧
    lit0p8 = decimal32 4 5 ∧
    lit0p9 = decimal32 9 10 ∧
    lit0p95 = decimal32 19 20 ∧
    lit1 = decimal32 1 1 ∧
    lit1p1 = decimal32 11 10 ∧
    lit1p5 = decimal32 3 2 ∧
    lit2 = decimal32 2 1 ∧
    lit2p5 = decimal32 5 2 ∧
    lit3 = decimal32 3 1 ∧
    lit6 = decimal32 6 1 ∧
    lit20 = decimal32 20 1 ∧
    flipSign litNeg20 = decimal32 20 1 ∧
    flipSign litNeg60 = decimal32 60 1 ∧
    lit95 = decimal32 95 1 ∧
    lit100 = decimal32 100 1 ∧
    lit300 = decimal32 300 1 ∧
    lit1000 = decimal32 1000 1 ∧
    pole0 = decimal32 19953 20000 ∧
    gain0 = decimal32 49523 500000 ∧
    pole1 = decimal32 963 1000 ∧
    gain1 = decimal32 741291 2500000 ∧
    pole2 = decimal32 57 100 ∧
    gain2 = decimal32 10526913 10000000 := by decide +kernel

theorem test_literals_f64 :
    dbl1 = decimal64 1 1 ∧
    dneg dblNeg1 = decimal64 1 1 ∧
    dbl2 = decimal64 2 1 ∧
    dneg dblNeg2 = decimal64 2 1 ∧
    dbl0p001 = decimal64 1 1000 ∧
    dbl0p050 = decimal64 1 20 ∧
    dbl0p005 = decimal64 1 200 ∧
    dbl0p707 = decimal64 707 1000 ∧
    dbl100 = decimal64 100 1 ∧
    dbl3000 = decimal64 3000 1 ∧
    dbl5000 = decimal64 5000 1 ∧
    dbl16000 = decimal64 16000 1 := by decide +kernel

/-- R9 with FTZ: the result of unary minus and of abs on a subnormal is the zero of its sign, and with FTZ false it is kept. -/
theorem test_ftz_sign_operations :
    fabs { Cfg.referenceValues with ftz := true } 0x80000001#32 = lit0 ∧
    fneg { Cfg.referenceValues with ftz := true } 0x00000001#32 = 0x80000000#32 ∧
    fabs Cfg.referenceValues 0x80000001#32 = 0x00000001#32 ∧
    fneg Cfg.referenceValues 0x00000001#32 = 0x80000001#32 := by decide

/-! ## Single commands against the vectors. `bench` is the core after PREPARE at 44100 Hz with block size 4096 (vector V1), left stage 1 filled in. -/

/-- The state a command leaves. -/
def after (i : Instr) (s : State) : State :=
  match exec i s with
  | .next t => t
  | _ => s

/-- What a command that has a next state leaves is that state. -/
theorem after_eq {i : Instr} {s t : State} (h : exec i s = .next t) : exec i s = .next (after i s) := by
  unfold after; rw [h]

/-- PROCESS_BLOCK has a next state. -/
theorem execProcessBlock_next (s : State) : ∃ t, exec .processBlock s = .next t := by
  show ∃ t, execProcessBlock s = .next t
  unfold execProcessBlock
  split_ifs <;> exact ⟨_, rfl⟩

/-- The anti-alias coefficients of vector V1 at 44100 Hz. -/
def aa44 : Coeffs := ⟨0x3DAA4DA4#32, 0x3E2A4DA4#32, 0x3DAA4DA4#32, 0xBF847EDF#32, 0x3EBC4920#32⟩

/-- The engine state of vector V1 at 44100 Hz. -/
def eng44 : Engine :=
  ⟨true, 0x40E5888000000000#64, 0x472C4400#32, 4096#32, 13234, 0x3CB7AB5A#32, 0x39EDB7EB#32, 0x3B944570#32⟩

/-- A left stage 1 after PREPARE at 44100 Hz, with the draws given. -/
def inst44 (draws : List F32) : Inst :=
  { Inst.powerOn with flt := { Inst.powerOn.flt with aa := aa44 }, noise := ⟨draws, 0⟩ }

/-- The core after PREPARE at 44100 Hz with the sample `x` in A0 and stage 1 parameters `p`. -/
def bench (x : F32) (p : StageParams) (draws : List F32) : State :=
  { State.reset with eng := eng44, a0 := x, s1 := p, i00 := inst44 draws }

/-- Operands of a PREPARE: a sample rate and a block size. -/
def prepareAt (fs : F64) (mb : Word) : State :=
  { State.reset with a0 := fs.extractLsb' 0 32, a1 := fs.extractLsb' 32 32, a2 := mb }

/-- Vector V1. -/
theorem test_prepare_installs : (after .prepare (prepareAt 0x40E5888000000000#64 4096#32)).eng = eng44 ∧
    (after .prepare (prepareAt 0x40E5888000000000#64 4096#32)).i11.flt.aa = aa44 := by decide +kernel
/-- Vector V2. -/
theorem test_prepare_refuses :
    (after .prepare (prepareAt 0x40CF400000000000#64 0#32)).statusWord = 0x30#32 ∧
    (after .prepare (prepareAt 0x7FF8000000000000#64 4096#32)).statusWord = 0x30#32 ∧
    (after .prepare (prepareAt 0x8000000000000000#64 4096#32)).statusWord = 0x30#32 ∧
    (after .prepare (prepareAt 0x40E5888000000000#64 4097#32)).statusWord = 0x40#32 := by decide +kernel
/-- Vector V2: RESET clears a sticky ERR and keeps the preparation. -/
theorem test_reset_clears : (after .reset { bench lit1 StageParams.powerOn [] with err := 3#4 }).statusWord = 1#32 ∧
    (after .reset { bench lit1 StageParams.powerOn [] with i00 := { inst44 [] with cmp := ⟨lit1, lit1⟩ } }).i00
      = inst44 [] := by decide +kernel
/-- Vector V61. -/
theorem test_block_bypassed :
    let s := ((({ bench lit0 StageParams.powerOn [] with ctrl := 1#2, blockLen := 2#32 } : State).bufWrite .left 0
      lit1).bufWrite .left 1 0xC0000000#32).bufWrite .right 1 lit0p5
    (after .processBlock s).samples .left 2 = [0x3F42F7D6#32, 0xBF76CA83#32] ∧
    (after .processBlock s).samples .right 2 = [lit0, 0x3EEC9A9F#32] := by decide +kernel
/-- Vector V61. -/
theorem test_block_faults :
    (after .processBlock { bench lit0 StageParams.powerOn [] with blockLen := 4097#32 }).statusWord = 0x41#32 ∧
    (after .processBlock { bench lit0 { StageParams.powerOn with mixPct := 0x7FC00000#32 } [] with
      blockLen := 2#32 }).statusWord = 0x51#32 := by decide +kernel
/-- D44, corner case (a) of R240: an empty block has no effect though a parameter is a NaN; with BLOCK_LEN 1 the same parameter faults. -/
theorem test_empty_block_nan :
    let s := bench lit0 { StageParams.powerOn with mixPct := 0x7FC00000#32 } []
    (after .processBlock { s with blockLen := 0#32 }).statusWord = 0x01#32 ∧
    (after .processBlock { s with blockLen := 1#32 }).statusWord = 0x51#32 := by decide +kernel
/-- Vector V70. -/
theorem test_stage_sample : (after (.stageSample .left .one)
    (bench lit1 ⟨lit100, lit0, lit100, lit100⟩ [lit0])).result = 0x3F7FFE58#32 := by decide +kernel
/-- Vector V20: the first call. -/
theorem test_compress : (after (.compress .left .one) (bench lit1 StageParams.powerOn [])).result = lit1 ∧
    (after (.compress .left .one) (bench lit1 StageParams.powerOn [])).i00.cmp = ⟨0x3CB7AB5A#32, lit0⟩ := by decide +kernel
/-- Vector V20: gains at exact envelope values. -/
theorem test_gains : compressGain Cfg.referenceValues lit0p2 = 0x3F3504F3#32 ∧
    expandGain Cfg.referenceValues lit0p2 = 0x3FFFFFFF#32 ∧
    compressGain Cfg.referenceValues lit0p1 = lit1 ∧ expandGain Cfg.referenceValues lit0p5 = lit3 := by decide +kernel
/-- R153: the expand envelope moves, the compress envelope stays. -/
theorem test_expand : (after (.expand .left .one) (bench 0xBF800000#32 StageParams.powerOn [])).result = 0xBF800000#32 ∧
    (after (.expand .left .one) (bench 0xBF800000#32 StageParams.powerOn [])).i00.cmp = ⟨lit0, 0x3CB7AB5A#32⟩ := by decide +kernel
/-- Vector V10: call 0 stores tanh(1) at index 0. -/
theorem test_delay_writes : (after (.delaySample .left .one) (bench lit1 ⟨lit100, lit0, lit0, lit0⟩ [])).i00.dly =
    ⟨[(0, 0x3F42F7D6#32)], 1⟩ := by decide +kernel
/-- Vector V10: call 4410 returns it. -/
theorem test_delay_reads : (after (.delaySample .left .one) { bench lit0 ⟨lit100, lit0, lit0, lit0⟩ [] with
    i00 := { inst44 [] with dly := ⟨[(0, 0x3F42F7D6#32)], 4410⟩ } }).result = 0x3F42F7D6#32 := by decide +kernel
/-- Vector V30: x = 0.5 with a zero draw. -/
theorem test_bbd_quantizes : (after (.bbdSample .left .one) (bench lit0p5 StageParams.powerOn [lit0])).result =
    0x3EED9D0F#32 := by decide +kernel
/-- Vector V30: x = 0 with the draw 1.0. -/
theorem test_bbd_noise :
    (after (.bbdSample .left .one) (bench lit0 StageParams.powerOn [lit1])).result = 0x399D3703#32 ∧
    (after (.bbdSample .left .one) (bench lit0 StageParams.powerOn [lit1])).i00.bbd =
      ⟨0x3DCAD8A1#32, 0x3E97D0FF#32, 0x3F86BE97#32, 0x399ECD8C#32⟩ := by decide +kernel
/-- Vector V40: tone 100 and tone 70. -/
theorem test_filter :
    (after (.filterSample .left .one) (bench lit1 { StageParams.powerOn with tonePct := lit100 } [])).result =
      0x3C717812#32 ∧
    (after (.filterSample .left .one) (bench lit1 StageParams.powerOn [])).result = 0x3C2DAA27#32 := by decide +kernel
/-- Vector V40: the throttle keeps 70.0 when 70.1 is asked for, and recomputes for 70.15. -/
theorem test_filter_throttle : toneChanged Cfg.referenceValues 0x428C3333#32 (some 0x428C0000#32) = false ∧
    toneChanged Cfg.referenceValues 0x428C4CCD#32 (some 0x428C0000#32) = true := by decide +kernel
/-- Vector V50: mix 100, dry 1.0, wet 0.0, then dry 0.0, wet 1.0. -/
theorem test_mix :
    (after (.mixSample .left .one) { bench lit1 ⟨lit100, lit0, lit100, lit0⟩ [] with a1 := lit0 }).result =
      0x3F7FFE58#32 ∧
    (after (.mixSample .left .one) { bench lit0 ⟨lit100, lit0, lit100, lit0⟩ [] with a1 := lit1 }).result =
      0x3BE8E6E7#32 := by decide +kernel
/-- Entry 24, by hand: from sm = 2^-119 toward 0 the product with MIXC (less than 2^-7) is below 2^-126, so with FTZ the ratio is kept (R9, R213) or +0.0 (R214 (e)); from 2^-118 the product is normal and both agree. -/
theorem test_mix_decay_flushed :
    let flush : Cfg := { Cfg.referenceValues with ftz := true }
    smoothMix flush eng44 lit0 ⟨0x04000000#32, true⟩ = 0x04000000#32 ∧
    smoothMix { flush with mixStop := .zero } eng44 lit0 ⟨0x04000000#32, true⟩ = lit0 ∧
    smoothMix { flush with mixStop := .zero } eng44 lit0 ⟨0x04800000#32, true⟩ =
      smoothMix flush eng44 lit0 ⟨0x04800000#32, true⟩ := by decide +kernel
/-- Vector V50: with FTZ false the decaying ratio stops at the subnormal 0x6E, whatever mixStop is. -/
theorem test_mix_decay_stops :
    smoothMix Cfg.referenceValues eng44 lit0 ⟨0x0000006E#32, true⟩ = 0x0000006E#32 ∧
    smoothMix { Cfg.referenceValues with mixStop := .zero } eng44 lit0 ⟨0x0000006E#32, true⟩ = 0x0000006E#32 := by decide +kernel
/-- Vector V60. -/
theorem test_softclip : (after .softclip (bench lit1 StageParams.powerOn [])).result = 0x3F42F7D6#32 ∧
    (after .softclip (bench 0xFF800000#32 StageParams.powerOn [])).result = 0xBF800000#32 ∧
    (after .softclip (bench 0x41100000#32 StageParams.powerOn [])).result = 0x3F7FFFFF#32 ∧
    (after .softclip (bench 0x80000000#32 StageParams.powerOn [])).result = 0x80000000#32 := by decide +kernel

/-- The state a step leaves. -/
def stepped (s : State) : State :=
  match step s with
  | .next t => t
  | _ => s

/-- R90: the placed word is the next command run, here SOFTCLIP of 1.0. -/
theorem test_step_runs_word :
    (stepped (({ State.reset with a0 := lit1 } : State).withFetchWord 32 0x16)).result = 0x3F42F7D6#32 := by decide +kernel
/-- R62, R64, R66: a host write of BUF(0)[0] and what the host reads back. -/
theorem test_step_write_read : (stepped (stepped { State.reset with
    host := [.write 0x10000 4 0x12345678#32, .read 0x10000 4] })).reads = [0x12345678#32] ∧
    (stepped { State.reset with host := [.write 0x10000 4 0x12345678#32] }).readByte 0x10003 = 0x12#8 := by decide
/-- R70, R72: a CTRL write that arrives inside a command is performed by its end. -/
theorem test_step_control_inside : (stepped { State.reset with host := [.write 0 4 2#32], control := [(1, 7#32)] }).ctrl = 3#2 := by decide

/-! ## Witnesses: a concrete state and operands for the hypotheses of each statement -/

/-- The core right after a successful PREPARE at 44100 Hz with block size 4096, its operands still in A0 to A2. -/
def ready : State :=
  { (prepareAt 0x40E5888000000000#64 4096#32).mapInst
      (prepareInst Cfg.referenceValues (lowpass Cfg.referenceValues 0x40E5888000000000#64 dbl5000)) with
    eng := preparedEngine Cfg.referenceValues 0x40E5888000000000#64 4096#32, err := 0#4 }

theorem test_ready_is_prepared : exec .prepare (prepareAt 0x40E5888000000000#64 4096#32) = .next ready := by
  have h1 : rateLegal (prepareAt 0x40E5888000000000#64 4096#32).cfg
      (prepareAt 0x40E5888000000000#64 4096#32).sampleRateOperand = true := by decide +kernel
  have h2 : blockSizeLegal (prepareAt 0x40E5888000000000#64 4096#32).cfg
      (prepareAt 0x40E5888000000000#64 4096#32).a2 = true := by decide +kernel
  have h3 : (prepareAt 0x40E5888000000000#64 4096#32).sampleRateOperand = 0x40E5888000000000#64 := by decide
  unfold exec execPrepare
  rw [h1, h2, h3]
  rfl

theorem ready_engine_installed : EngineInstalled ready :=
  Or.inr ⟨rfl, by decide +kernel, by decide +kernel, rfl⟩

theorem ready_inst (ch : Channel) (st : Stage) : ready.inst ch st =
    prepareInst Cfg.referenceValues (lowpass Cfg.referenceValues 0x40E5888000000000#64 dbl5000) Inst.powerOn := by
  cases ch <;> cases st <;> rfl

theorem ready_rings_sound : RingsSound ready := by
  intro ch st
  rw [ready_inst]
  have hc : ready.eng.cap = 13234 := by decide +kernel
  rw [hc]
  exact ⟨rfl, fun _ _ => rfl, fun _ => Or.inr (show withinOne 0#32 = true by decide),
    Or.inl (show 0 < 13234 by decide)⟩

theorem ready_filters_tuned : FiltersTuned ready := by
  intro _ ch st
  rw [ready_inst]
  exact ⟨rfl, fun t ht => by cases ht⟩

/-- A prepared core about to run a block of `n` samples under the CTRL bits `m`. -/
def readyBlock (m : BitVec 2) (n : Word) : State := { ready with ctrl := m, blockLen := n }

theorem readyBlock_engine_installed (m : BitVec 2) (n : Word) : EngineInstalled (readyBlock m n) :=
  ready_engine_installed

theorem readyBlock_mem (m : BitVec 2) (n : Word) : Memory.wf (readyBlock m n).mem = true := rfl

theorem readyBlock_no_fault : (([0#2, 1#2, 2#2, 3#2] : List (BitVec 2)).all fun m =>
    ([0#32, 2#32, 4096#32] : List Word).all fun n =>
      (faultOf .processBlock (readyBlock m n)).isNone) = true := by decide +kernel

/-- Each clause, at the edges of the opcode map and of the fields. -/
theorem test_witness_DecodingOrder :
    ((0x00000017#32 : Word).extractLsb' 0 8 = 0x17#8) ∧
    ((0x00000416#32 : Word).extractLsb' 0 8 = 0x16#8 ∧ (0x00000416#32 : Word).extractLsb' 10 22 ≠ 0#22) ∧
    ((0x00000116#32 : Word).extractLsb' 0 8 = 0x16#8 ∧ (0x00000116#32 : Word).extractLsb' 10 22 = 0#22 ∧
      (0x00000116#32 : Word).extractLsb' 8 2 ≠ 0#2) ∧
    ((0x00000304#32 : Word).extractLsb' 0 8 = 0x04#8 ∧ (0x00000304#32 : Word).extractLsb' 10 22 = 0#22) := by decide
theorem test_witness_StepRunsTheCommand : State.reset.cfg.legal = true ∧
    ({ State.reset with host := [.write 0 4 0x16#32] } : State).host = .write State.reset.cfg.base 4 0x16#32 :: [] ∧
    decode 0x16#32 = .ok .softclip ∧ decodeTableWord 32 0x16 = some .softclip := by decide
/-- The last word of the window. -/
theorem test_witness_HostReadStep :
    let s := { State.reset with host := [.read 0x2FFFC 4] }
    s.cfg.legal = true ∧ s.host = .read 0x2FFFC 4 :: [] ∧ inWindow s.cfg 0x2FFFC = true ∧
    (0x2FFFC - s.cfg.base) % 4 = 0 := by decide
/-- The configuration is legal; the bounds of each clause are met at 0x064, at 0xFFFC, at word 4095 and at word 4096. -/
theorem test_witness_RegisterMap : State.reset.cfg.legal = true ∧ 0x064 ≤ 0x064 ∧ 0xFFFC < 0x10000 ∧
    4095 < State.reset.cfg.bufWords ∧ State.reset.cfg.bufWords ≤ 4096 ∧ 4096 < 0x4000 := by decide
theorem test_witness_HostWriteStep :
    let s := { State.reset with host := [.write 0x004 4 7#32] }
    s.cfg.legal = true ∧ s.host = .write 0x004 4 7#32 :: [] ∧ inWindow s.cfg 0x004 = true ∧
    (0x004 - s.cfg.base) % 4 = 0 ∧ 0x004 ≠ s.cfg.base := by decide
/-- Offsets at the edges of what a write stores to, and of what it does not. -/
theorem test_witness_WriteThenRead : State.reset.cfg.legal = true ∧ Memory.wf State.reset.mem = true ∧
    (∀ off ∈ [0x008, 0x00C, 0x054, 0x10000, 0x13FFC, 0x20000, 0x23FFC],
      off ≠ 0 ∧ off < 0x30000 ∧ off % 4 = 0 ∧ storesAt State.reset.cfg off = true) ∧
    (∀ off ∈ [0x004, 0x058, 0x060, 0xFFFC, 0x14000, 0x1FFFC, 0x24000, 0x2FFFC],
      off ≠ 0 ∧ off < 0x30000 ∧ off % 4 = 0 ∧ storesAt State.reset.cfg off = false) := by decide
theorem test_witness_WritesTouchOnlyTheirWord : 0xFFFC ≠ 0 ∧ 0xFFFC < 0x10000 ∧ 0x14000 ≠ 0 ∧ 0x14000 % 4 = 0 ∧
    storesAt State.reset.cfg 0x14000 = false := by decide
/-- The last word of a buffer. -/
theorem test_witness_BufferBytesLittleEndian : Memory.wf State.reset.mem = true ∧ 4095 < State.reset.cfg.bufWords ∧
    (State.reset.bufWrite .right 4095 0x12345678#32).readByte 0x23FFC = 0x78#8 := by decide
/-- An admitted access at the top of the window, one of another width, one off alignment. -/
theorem test_witness_OnlyAlignedWordAccesses : State.reset.cfg.legal = true ∧
    inWindow State.reset.cfg 0x2FFFC = true ∧ (0x2FFFC - State.reset.cfg.base) % 4 = 0 ∧
    inWindow State.reset.cfg 0x2FFFF = true ∧ (0x2FFFF - State.reset.cfg.base) % 4 ≠ 0 ∧
    ({ State.reset with host := [.read 0x2FFFC 2] } : State).host = .read 0x2FFFC 2 :: [] := by decide
/-- The last address below the window, the first above it, each bound of BUF_WORDS, and a large delay RAM. -/
theorem test_witness_OutsideTheWindowIsRefused :
    let c := { Cfg.referenceValues with base := 0x1000 }
    let s := { State.powerOn c with host := [.write 0x31000 4 1#32] }
    s.cfg.legal = true ∧ 0xFFF < s.cfg.base ∧ s.cfg.base + 0x30000 ≤ 0x31000 ∧
    s.host = .write 0x31000 4 1#32 :: [] ∧ ({ c with bufWords := 0 } : Cfg).bufWords = 0 ∧
    16384 < ({ c with bufWords := 16385 } : Cfg).bufWords ∧
    ({ c with bufWords := 16384, delayRamWords := 2 ^ 32 } : Cfg).legal = true := by decide
theorem test_witness_IdleAndPowerLoss : State.reset.cfg.legal = true ∧ State.reset.host = [] ∧
    ({ State.reset with host := [.powerCycle] } : State).host = .powerCycle :: [] := by decide
/-- A state for each fault a command raises, the largest illegal values among them, and one with ERR already set. -/
theorem test_witness_FaultChangesOnlyErr :
    faultOf .prepare (prepareAt 0x40CF400000000000#64 4096#32) = some .badSampleRate ∧
    faultOf .prepare (prepareAt 0x40E5888000000000#64 0#32) = some .badBlockSize ∧
    faultOf .processBlock { ready with blockLen := 4097#32 } = some .badBlockSize ∧
    faultOf (.mixSample .left .one) { ready with s1 := ⟨lit0, lit0, 0xFF800001#32, lit0⟩, err := 3#4 } =
      some .nanParameter := by decide +kernel
theorem test_witness_NoFaultWithoutItsCondition :
    faultOf .prepare (prepareAt 0x40CF404000000000#64 4096#32) = none ∧ faultOf .reset ready = none ∧
    faultOf .processBlock (readyBlock 2#2 4096#32) = none ∧ faultOf (.mixSample .left .one) ready = none ∧
    (readyBlock 2#2 0#32).blockLen = 0#32 := by decide +kernel
/-- A step with ERR set that keeps it, and the RESET that clears it. -/
theorem test_witness_ErrIsSticky :
    let s := { ready with err := 4#4, host := [.write 0 4 0#32] }
    let r := { ready with err := 4#4, host := [.write 0 4 2#32] }
    (∃ t, step s = .next t) ∧ s.err ≠ 0#4 ∧ (stepped s).err = 4#4 ∧
    (∃ t, step r = .next t) ∧ (stepped r).err = 0#4 :=
  ⟨⟨_, rfl⟩, by decide, by decide +kernel, ⟨_, rfl⟩, by decide +kernel⟩
/-- A step that changes the engine state. -/
theorem test_witness_EngineChangesOnlyByPrepare :
    let s := (prepareAt 0x40E5888000000000#64 4096#32).withFetchWord 32 1
    (stepped s).eng.prep = true ∧ s.eng.prep = false := by decide +kernel
/-- Accesses at both ends of the window. -/
theorem test_witness_AdmittedEventsAreServed : State.reset.cfg.legal = true ∧
    ({ State.reset with host := [.write 0x2FFFC 4 1#32] } : State).host = .write 0x2FFFC 4 1#32 :: [] ∧
    inWindow State.reset.cfg 0x2FFFC = true ∧ (0x2FFFC - State.reset.cfg.base) % 4 = 0 ∧
    inWindow State.reset.cfg 0 = true ∧ (0 - State.reset.cfg.base) % 4 = 0 := by decide
/-- Commands that answer a next state, and a block that does on canonical memory. -/
theorem test_witness_CommandFrame : (∃ t, exec .reset ready = .next t) ∧ (∃ t, exec .softclip ready = .next t) ∧
    (∃ t, exec .processBlock State.reset = .next t) ∧ Memory.wf State.reset.mem = true :=
  ⟨⟨_, rfl⟩, ⟨_, rfl⟩, ⟨_, rfl⟩, rfl⟩
/-- Every instance command answers a next state on the prepared core. -/
theorem test_witness_InstanceUnitFrame (ch : Channel) (st : Stage) :
    ∀ i ∈ [Instr.stageSample ch st, .compress ch st, .delaySample ch st, .bbdSample ch st, .expand ch st,
      .filterSample ch st, .mixSample ch st], ∃ t, exec i ready = .next t := by
  intro i hi
  simp only [List.mem_cons, List.mem_nil_iff, or_false] at hi
  rcases hi with h | h | h | h | h | h | h <;> subst h <;> exact ⟨_, rfl⟩
/-- Two prepared states that differ in CTRL, A1 and another instance. -/
theorem test_witness_InstanceCommandsReadTheirOwn :
    let s' := { ready with ctrl := 3#2, a1 := lit1, i11 := Inst.powerOn }
    ready.cfg = s'.cfg ∧ ready.eng = s'.eng ∧ ready.stageRegs .one = s'.stageRegs .one ∧ ready.a0 = s'.a0 ∧
    ready.inst .left .one = s'.inst .left .one ∧ ready.a1 ≠ s'.a1 ∧
    faultOf (.delaySample .left .one) ready = none ∧
    (∃ t, exec (.delaySample .left .one) ready = .next t) ∧
    (∃ t, exec (.delaySample .left .one) s' = .next t) :=
  ⟨rfl, rfl, rfl, rfl, rfl, by decide +kernel, by decide +kernel, ⟨_, rfl⟩, ⟨_, rfl⟩⟩
/-- The state at power-on, with a block length at the limit. -/
theorem test_witness_PassThroughBeforePrepare :
    let s := { State.reset with blockLen := 4096#32 }
    s.eng.prep = false ∧ s.blockLen.toNat ≤ s.cfg.bufWords := by decide
theorem test_witness_CompanderResults : ready.eng.prep = true := rfl
theorem test_witness_DelayResult : EngineInstalled ready ∧ RingsSound ready ∧
    ready.eng.cap < 2 ^ 24 ∧ ready.eng.prep = true ∧ isNaN32 (ready.paramReg .two .delayMs) = false ∧
    isNaN32 (ready.paramReg .two .feedbackPct) = false :=
  ⟨ready_engine_installed, ready_rings_sound, by decide +kernel, rfl, by decide +kernel, by decide +kernel⟩
theorem test_witness_BbdResult : ready.eng.prep = true ∧ isNaN32 (ready.paramReg .one .delayMs) = false :=
  ⟨rfl, by decide +kernel⟩
theorem test_witness_FilterResult : ready.eng.prep = true ∧ isNaN32 (ready.paramReg .one .tonePct) = false :=
  ⟨rfl, by decide +kernel⟩
/-- The prepared core; and operands of the flushed case, with FTZ true and a ratio of 2^-119. -/
theorem test_witness_MixResult : ready.eng.prep = true ∧ isNaN32 (ready.paramReg .one .mixPct) = false ∧
    isZero32 (mixTarget { Cfg.referenceValues with ftz := true } lit0) = true ∧
    isSubnormal32 (fmul Cfg.referenceValues eng44.mixc
      (fsub { Cfg.referenceValues with ftz := true } lit0 0x04000000#32)) = true :=
  ⟨rfl, by decide +kernel, by decide +kernel, by decide +kernel⟩
theorem test_witness_StageResult : ready.eng.prep = true ∧ ∀ p, isNaN32 (ready.paramReg .two p) = false := by
  refine ⟨rfl, fun p => ?_⟩
  cases p <;> decide +kernel
/-- The largest operand that is no NaN. -/
theorem test_witness_SoftclipResult : isNaN32 ({ State.reset with a0 := 0x7F800000#32 } : State).a0 = false := by decide
/-- The legal rates of vector V2 at both ends. -/
theorem test_witness_PrepareResult : faultOf .prepare (prepareAt 0x40CF404000000000#64 1#32) = none ∧
    faultOf .prepare (prepareAt 0x4107700000000000#64 4096#32) = none := by decide +kernel
/-- The operands of the PREPARE are still in A0 to A2. -/
theorem test_witness_ResetActsAsReprepare : EngineInstalled ready ∧ FiltersTuned ready ∧ ready.eng.prep = true ∧
    ready.a1 ++ ready.a0 = ready.eng.fs ∧ ready.a2 = ready.eng.maxb :=
  ⟨ready_engine_installed, ready_filters_tuned, rfl, by decide +kernel, rfl⟩
theorem test_witness_BlockRunsBothChannels : (readyBlock 2#2 4096#32).cfg.legal = true ∧
    EngineInstalled (readyBlock 2#2 4096#32) ∧ Memory.wf (readyBlock 2#2 4096#32).mem = true ∧
    (readyBlock 2#2 4096#32).eng.prep = true ∧ faultOf .processBlock (readyBlock 2#2 4096#32) = none :=
  ⟨rfl, readyBlock_engine_installed _ _, readyBlock_mem _ _, rfl, by decide +kernel⟩
/-- One snapshot for each case. -/
theorem test_witness_EngineSampleCases : (readyBlock 3#2 1#32).snapshot.byp = true ∧
    ((readyBlock 0#2 1#32).snapshot.byp = false ∧ (readyBlock 0#2 1#32).snapshot.casc = false) ∧
    ((readyBlock 2#2 1#32).snapshot.byp = false ∧ (readyBlock 2#2 1#32).snapshot.casc = true) := by decide +kernel
/-- Bypassed in cascaded mode, at the largest block length. -/
theorem test_witness_BypassedBlock : (readyBlock 3#2 4096#32).cfg.legal = true ∧
    EngineInstalled (readyBlock 3#2 4096#32) ∧ Memory.wf (readyBlock 3#2 4096#32).mem = true ∧
    (readyBlock 3#2 4096#32).eng.prep = true ∧ (readyBlock 3#2 4096#32).ctrl.getLsbD 0 = true ∧
    (readyBlock 3#2 4096#32).blockLen.toNat ≤ (readyBlock 3#2 4096#32).eng.maxb.toNat :=
  ⟨rfl, readyBlock_engine_installed _ _, readyBlock_mem _ _, rfl, by decide, by decide +kernel⟩
/-- A prepared block that runs in standard mode. -/
theorem test_witness_StandardModeFreezesStageTwo : (∃ t, exec .processBlock (readyBlock 0#2 2#32) = .next t) ∧
    faultOf .processBlock (readyBlock 0#2 2#32) = none ∧ (readyBlock 0#2 2#32).ctrl.getLsbD 1 = false := by
  exact ⟨execProcessBlock_next _, by decide +kernel, by decide⟩
theorem test_witness_BlockOutputsBounded : (readyBlock 2#2 2#32).cfg.legal = true ∧
    EngineInstalled (readyBlock 2#2 2#32) ∧ Memory.wf (readyBlock 2#2 2#32).mem = true ∧
    (readyBlock 2#2 2#32).eng.prep = true ∧ faultOf .processBlock (readyBlock 2#2 2#32) = none ∧
    (∃ t, exec .processBlock (readyBlock 2#2 2#32) = .next t) ∧ 1 < (readyBlock 2#2 2#32).blockLen.toNat :=
  ⟨rfl, readyBlock_engine_installed _ _, readyBlock_mem _ _, rfl, by decide +kernel,
    execProcessBlock_next _, by decide⟩
/-- A prepared block and the same block with CTRL writes inside. -/
theorem test_witness_ControlWritesMissTheBlock : (∃ t, exec .processBlock (readyBlock 2#2 2#32) = .next t) ∧
    ∃ t, exec .processBlock { readyBlock 2#2 2#32 with control := [(0, 1#32), (3, 2#32)] } = .next t :=
  ⟨execProcessBlock_next _, execProcessBlock_next _⟩
/-- An order of two samples for each channel. -/
theorem test_witness_AnyInterleaving : (readyBlock 2#2 2#32).cfg.legal = true ∧
    Memory.wf (readyBlock 2#2 2#32).mem = true ∧ (readyBlock 2#2 2#32).control = [] ∧
    (readyBlock 2#2 2#32).eng.prep = true ∧ faultOf .processBlock (readyBlock 2#2 2#32) = none ∧
    ([.left, .right, .right, .left] : List Channel).count .left = (readyBlock 2#2 2#32).blockLen.toNat ∧
    ([.left, .right, .right, .left] : List Channel).count .right = (readyBlock 2#2 2#32).blockLen.toNat :=
  ⟨rfl, readyBlock_mem _ _, rfl, rfl, by decide +kernel, by decide, by decide⟩
/-- A listed draw at an end of the range; a command that runs. -/
theorem test_witness_NoiseDrawsCounted : fle 0xBF800000#32 0xBF800000#32 = true ∧ fle 0xBF800000#32 lit1 = true ∧
    ({ queue := [0xBF800000#32], taken := 0 } : Noise).queue = 0xBF800000#32 :: [] ∧
    ∃ t, exec (.bbdSample .left .one) ready = .next t := ⟨by decide, by decide, rfl, ⟨_, rfl⟩⟩
/-- The smallest subnormal and the largest finite value. -/
theorem test_witness_ArithmeticRoundsToNearest : Cfg.referenceValues.ftz = false ∧
    isFinite32 0x00000001#32 = true ∧ isFinite32 0xFF7FFFFF#32 = true ∧ isZero32 0x00000001#32 = false ∧
    value32 lit1 + value32 0xBF800000#32 = 0 ∧ value32 lit1 - value32 lit1 = 0 ∧
    isFinite64 0x0000000000000001#64 = true ∧ isFinite64 0xFFEFFFFFFFFFFFFF#64 = true ∧
    value64 dbl1 + value64 dblNeg1 = 0 ∧ value64 dbl1 - value64 dbl1 = 0 ∧
    value64 dbl2 ≠ 0 := by decide +kernel
/-- Operands for each clause. -/
theorem test_witness_SpecialOperands : isNaN32 0x7F800001#32 = true ∧ isNaN32 0xFFFFFFFF#32 = true ∧
    isInf32 0x7F800000#32 = true ∧ isInf32 0xFF800000#32 = true ∧
    (0x7F800000#32 : F32).msb ≠ (0xFF800000#32 : F32).msb ∧ isFinite32 0x7F7FFFFF#32 = true ∧
    isZero32 0x7F7FFFFF#32 = false ∧ isNaN32 0x7F7FFFFF#32 = false ∧
    isZero32 0x80000000#32 = true ∧ isFinite32 0x80000000#32 = true := by decide
theorem test_witness_FtzFlushesSubnormals : ({ Cfg.referenceValues with ftz := true } : Cfg).ftz = true := rfl
/-- The ends of each range. -/
theorem test_witness_ConversionsAndIntegralRounding : |(-16777215 : Int)| < 2 ^ 24 ∧ Cfg.referenceValues.ftz = false ∧
    isFinite32 0xFF7FFFFF#32 = true ∧ isFinite64 0x7FEFFFFFFFFFFFFF#64 = true := by decide
/-- Operands for each clause, bounds in order, and bounds of equal value. -/
theorem test_witness_ComparisonAndClamp : isFinite32 lit20 = true ∧ isFinite32 lit300 = true ∧
    value32 lit20 ≤ value32 lit300 ∧ value32 0x80000000#32 = value32 lit0 ∧
    isNaN32 0xFFC00000#32 = true ∧ isInf32 0xFF800000#32 = true := by decide +kernel
/-- A NaN, a zero and an infinity. -/
theorem test_witness_TanhProperties : isNaN32 0x7FC00000#32 = true ∧ isZero32 0x80000000#32 = true ∧
    isNaN32 0xFF800000#32 = false := by decide
/-- The bound itself, and the highest rate the reference delay RAM admits. -/
theorem test_witness_CapacityAndLegalRates : isFinite64 0x40CF400000000000#64 = true ∧
    (0x40CF400000000000#64 : F64).msb = false ∧ rateLegal Cfg.referenceValues 0x4107700000000000#64 = true ∧
    rateLegal Cfg.referenceValues 0x40CF400000000000#64 = false := by decide +kernel
/-- 0.05 through COMPRESS and EXPAND. -/
theorem test_witness_CompanderExactBelowThreshold :
    let s := bench lit0p05 StageParams.powerOn []
    let t := after (.compress .left .one) s
    let u := after (.expand .left .one) { t with a0 := t.result }
    exec (.compress .left .one) s = .next t ∧
    exec (.expand .left .one) { t with a0 := t.result } = .next u ∧
    (s.eng.prep && !s.cfg.ftz && !isNaN32 s.a0 && flt (t.inst .left .one).cmp.envC lit0p1 &&
      flt (u.inst .left .one).cmp.envE lit0p1) = true :=
  ⟨after_eq rfl, after_eq rfl, by decide +kernel⟩
/-- Taps at the ends of [-1, 1], a zero one and a non-zero one. -/
theorem test_witness_IntegralDelayIsExact_taps : Cfg.referenceValues.ftz = false ∧ withinOne lit1 = true ∧
    withinOne 0xBF800000#32 = true ∧ withinOne 0x00000001#32 = true ∧ isZero32 0x00000001#32 = false ∧
    withinOne 0x80000000#32 = true ∧ isZero32 0x80000000#32 = true := by decide
/-- Vector V10, call 4410: tanh(1) written 4410 samples ago, on a core that is otherwise the prepared one. -/
def echoing : State := { ready with i00 := { ready.i00 with dly := ⟨[(0, 0x3F42F7D6#32)], 4410⟩ } }

theorem echoing_rings_sound : RingsSound echoing := by
  intro ch st
  have hc : ready.eng.cap = 13234 := by decide +kernel
  have other := ready_rings_sound
  cases ch <;> cases st
  · show RingSound ready.eng.cap ⟨[(0, 0x3F42F7D6#32)], 4410⟩
    rw [hc]
    refine ⟨by decide, fun k hk => ?_, fun k => ?_, Or.inl (by decide)⟩
    · rcases k with _ | k
      · omega
      · rfl
    · rcases k with _ | k
      · exact Or.inr (by decide)
      · exact Or.inr (show withinOne 0#32 = true by decide)
  · exact other .left .two
  · exact other .right .one
  · exact other .right .two

/-- A delay of 100 ms is 4410 samples at 44100 Hz; the element 4410 samples back is not zero, its neighbours are no NaN. -/
theorem test_witness_IntegralDelayIsExact : EngineInstalled echoing ∧ RingsSound echoing ∧
    echoing.eng.prep = true ∧ echoing.eng.cap < 2 ^ 24 ∧ echoing.cfg.ftz = false ∧
    isNaN32 (echoing.paramReg .one .delayMs) = false ∧ isNaN32 (echoing.paramReg .one .feedbackPct) = false ∧
    value32 (delaySamples echoing.cfg echoing.eng (echoing.paramRead .one .delayMs)) = (4410 : Nat) ∧
    (let line := (echoing.inst .left .one).dly
     let y := fun j : Int => cellGet line.ring (((line.w : Int) - (4410 : Nat) + j) % (echoing.eng.cap : Int)).toNat
     (∀ j ∈ ([-1, 0, 1, 2] : List Int), isNaN32 (y j) = false) ∧ isZero32 (y 0) = false) :=
  ⟨ready_engine_installed, echoing_rings_sound, rfl, by decide +kernel, rfl, by decide +kernel, by decide +kernel,
    by decide +kernel, by decide +kernel⟩
/-- The reference functions at +0, and a mix parameter of -0.0; a primed ratio of +0.0, and one not yet primed. -/
theorem test_witness_MixZeroIsDry :
    let s := { bench lit1 { StageParams.powerOn with mixPct := 0x80000000#32 } [] with a1 := lit2 }
    (s.eng.prep && !s.cfg.ftz && decide (sinF32 s.cfg lit0 = lit0) && decide (cosF32 s.cfg lit0 = lit1) &&
      isFinite32 s.eng.mixc && decide ((s.inst .left .one).mix = ⟨lit0, true⟩) && !s.eng.mixc.msb &&
      decide ((({ s with i00 := { inst44 [] with mix := ⟨lit0, false⟩ } } : State).inst .left .one).mix.primed = false) &&
      fle (s.paramReg .one .mixPct) lit0 && isFinite32 s.a1 && !isNaN32 s.a0 && !isZero32 s.a0) = true := by decide +kernel
/-- The coefficients of vector V1, a full-scale envelope and sample. -/
theorem test_witness_EnvelopesStayNonNegative : isFinite32 eng44.att = true ∧ 0 ≤ value32 eng44.att ∧
    value32 eng44.att ≤ 1 ∧ isFinite32 eng44.rel = true ∧ 0 ≤ value32 eng44.rel ∧ value32 eng44.rel ≤ 1 ∧
    isFinite32 0x7F7FFFFF#32 = true ∧ 0 ≤ value32 0x7F7FFFFF#32 := by decide +kernel
/-- A fresh stage 2 with mix parameter 0 behind a stage 1 fed with 1.0. -/
theorem test_witness_CascadeAtMixZeroIsStandard :
    let c := Cfg.referenceValues
    let p := { StageParams.powerOn with mixPct := lit0 }
    let s1 := (stage c eng44 .left .one lit1 p (inst44 [lit0])).2
    let r1 := compressF c eng44 s1 (inst44 [lit0])
    let r2 := delayInst c eng44 r1.2 p.delayMs p.feedbackPct r1.1
    let r3 := bbdInst c .left .two r2.2 p.delayMs r2.1
    let r4 := expandF c eng44 r3.2 r3.1
    (!c.ftz && decide (sinF32 c lit0 = lit0) && decide (cosF32 c lit0 = lit1) && isFinite32 eng44.mixc &&
      decide ((inst44 [lit0]).mix = ⟨lit0, true⟩) && !eng44.mixc.msb &&
      decide (({ inst44 [lit0] with mix := ⟨lit0, false⟩ } : Inst).mix.primed = false) && fle p.mixPct lit0 && !isNaN32 s1 &&
      isFinite32 (filterInst c eng44 r4.2 p.tonePct r4.1).2) = true := by decide +kernel
/-- A sound prepared state whose step has a next state. -/
theorem test_witness_InvariantsKept : step ready = .next ready ∧ MemorySound ready ∧ RingsSound ready ∧
    EngineInstalled ready ∧ FiltersTuned ready ∧ ErrLegal ready ∧ MixPrimed ready := by
  refine ⟨rfl, ⟨rfl, fun a _ => rfl⟩, ready_rings_sound, ready_engine_installed, ready_filters_tuned,
    show (0#4).toNat ≤ 5 by decide, ?_⟩
  intro _ ch st
  rw [ready_inst]
  rfl

end Sys2Proof.Tests
end

section
/-! SUPPORT. Rounding to nearest on magnitudes: what a magnitude is worth in smallest subnormals, and that the rounding of Float.lean picks a nearest one, an even one on a tie, and infinity exactly from the overflow threshold on (R9). -/

namespace Sys2Proof.Machine

/-! ## Rounding to the nearest integer -/

/-- The rounded integer is within half of the quotient, and a tie leaves it even. -/
theorem divNearestEven_within_half (n : Nat) {d : Nat} (hd : 0 < d) :
    2 * |(n : ℤ) - divNearestEven n d * d| ≤ d ∧
    (2 * |(n : ℤ) - divNearestEven n d * d| = d → divNearestEven n d % 2 = 0) := by
  have hdm : (d : ℤ) * (n / d : ℕ) + (n % d : ℕ) = n := by exact_mod_cast Nat.div_add_mod n d
  have hr := Nat.mod_lt n hd
  have keepsRest : (n : ℤ) - (n / d : ℕ) * d = (n % d : ℕ) := by linarith
  have keepsGap : (n : ℤ) - (n / d + 1 : ℕ) * d = (n % d : ℕ) - d := by rw [Nat.cast_succ]; linarith
  simp only [divNearestEven]
  split_ifs with below above
  · rw [keepsRest, abs_of_nonneg (by positivity)]
    omega
  · rw [keepsGap, abs_of_nonpos (by omega)]
    omega
  · rcases Nat.mod_two_eq_zero_or_one (n / d) with even | odd
    · rw [even, Nat.add_zero, keepsRest, abs_of_nonneg (by positivity)]
      omega
    · rw [odd, keepsGap, abs_of_nonpos (by omega)]
      omega

/-- No integer is nearer to the quotient than the rounded one, and only an even one shares its place. -/
theorem divNearestEven_nearest (n j : Nat) {d : Nat} (hd : 0 < d) :
    |(n : ℤ) - divNearestEven n d * d| ≤ |(n : ℤ) - j * d| ∧
    (|(n : ℤ) - divNearestEven n d * d| = |(n : ℤ) - j * d| →
      j = divNearestEven n d ∨ divNearestEven n d % 2 = 0) := by
  obtain ⟨half, tie⟩ := divNearestEven_within_half n hd
  by_cases hj : j = divNearestEven n d
  · subst hj
    exact ⟨le_rfl, fun _ => .inl rfl⟩
  · have apart : (d : ℤ) ≤ |(j : ℤ) * d - divNearestEven n d * d| := by
      rw [← sub_mul, abs_mul, Nat.abs_cast]
      have : 1 ≤ |(j : ℤ) - divNearestEven n d| := Int.one_le_abs (by omega)
      nlinarith
    have triangle := abs_sub_le ((j : ℤ) * d) n (divNearestEven n d * d)
    rw [abs_sub_comm ((j : ℤ) * d) n] at triangle
    exact ⟨by linarith, fun h => .inr (tie (by linarith))⟩

/-! ## Magnitudes in units of the smallest subnormal -/

theorem FloatFormat.units_strictMono (f : FloatFormat) {k : Nat} (hk : f.hidden = 2 ^ k) :
    StrictMono f.units := by
  intro m m' hlt
  by_contra hle
  have := f.rawRound_mono hk one_pos one_pos (n := f.units m') (n' := f.units m) (by omega)
  rw [← Nat.mul_one (f.units m'), ← Nat.mul_one (f.units m), f.rawRound_units hk one_pos,
    f.rawRound_units hk one_pos] at this
  omega

theorem FloatFormat.units_zero (f : FloatFormat) {k : Nat} (hk : f.hidden = 2 ^ k) : f.units 0 = 0 :=
  f.units_of_lt (by rw [hk]; positivity)

/-- The magnitude with last place `2 ^ u` and significand `t` is worth `t * 2 ^ u`. -/
theorem FloatFormat.units_place (f : FloatFormat) {k u t : Nat} (hk : f.hidden = 2 ^ k)
    (hle : t ≤ 2 * f.hidden) (hge : u = 0 ∨ f.hidden ≤ t) :
    f.units (u * f.hidden + t) = t * 2 ^ u := by
  have hpos : 0 < f.hidden := by rw [hk]; positivity
  rcases Nat.lt_or_ge t f.hidden with small | large
  · obtain rfl : u = 0 := by omega
    rw [Nat.zero_mul, Nat.zero_add, f.units_of_lt small]
    simp
  · obtain ⟨rest, rfl⟩ := Nat.exists_eq_add_of_le large
    rw [f.units_of_ge (by omega),
      show u * f.hidden + (f.hidden + rest) = rest + f.hidden * (u + 1) by ring,
      Nat.add_mul_mod_self_left, Nat.add_mul_div_left _ _ hpos]
    rcases Nat.lt_or_ge rest f.hidden with inside | top
    · rw [Nat.mod_eq_of_lt inside, Nat.div_eq_of_lt inside]
      simp
    · obtain rfl : rest = f.hidden := by omega
      rw [Nat.mod_self, Nat.div_self hpos, show 1 + (u + 1) - 1 = u + 1 by omega, pow_succ]
      ring

/-- Every finite magnitude is a significand below `2 * hidden` times a power of two. -/
theorem FloatFormat.units_eq_mul_pow (f : FloatFormat) (hpos : 0 < f.hidden) (m : Nat) :
    ∃ t e, t < 2 * f.hidden ∧ f.units m = t * 2 ^ e := by
  rcases Nat.lt_or_ge m f.hidden with hm | hm
  · exact ⟨m, 0, by omega, by rw [f.units_of_lt hm]; simp⟩
  · have := Nat.mod_lt m hpos
    exact ⟨f.hidden + m % f.hidden, m / f.hidden - 1, by omega, f.units_of_ge hm⟩

/-- From the magnitude with last place `2 ^ u` on, every magnitude is worth a multiple of `2 ^ u`. -/
theorem FloatFormat.units_multiple (f : FloatFormat) {k u m : Nat} (hk : f.hidden = 2 ^ k)
    (h : u = 0 ∨ (u + 1) * f.hidden ≤ m) : ∃ j, f.units m = j * 2 ^ u := by
  have hpos : 0 < f.hidden := by rw [hk]; positivity
  rcases Nat.eq_zero_or_pos u with rfl | hu
  · exact ⟨f.units m, by simp⟩
  · have hm : (u + 1) * f.hidden ≤ m := by omega
    have hexp : u ≤ m / f.hidden - 1 := by
      have := (Nat.le_div_iff_mul_le hpos).mpr hm
      omega
    rw [f.units_of_ge (by nlinarith)]
    exact ⟨(f.hidden + m % f.hidden) * 2 ^ (m / f.hidden - 1 - u), by
      rw [mul_assoc, ← pow_add, Nat.sub_add_cancel hexp]⟩

/-! ## The rounding of a quotient -/

/-- The exponent of the last place of the rounding of `n / d`. -/
def FloatFormat.place (f : FloatFormat) (n d : Nat) : Nat := Nat.log2 (n / d) - Nat.log2 f.hidden

theorem FloatFormat.rawRound_eq_place (f : FloatFormat) (n d : Nat) :
    f.rawRound n d = f.place n d * f.hidden + divNearestEven n (d * 2 ^ f.place n d) := rfl

/-- The quotient has at most one more binary digit than a significand above its last place. -/
theorem FloatFormat.lt_place (f : FloatFormat) {k n d : Nat} (hk : f.hidden = 2 ^ k) (hd : 0 < d) :
    n ≤ 2 * f.hidden * (d * 2 ^ f.place n d) := by
  have hlog : Nat.log2 f.hidden = k := by rw [hk]; exact Nat.log2_two_pow
  have hq : n / d < 2 ^ (k + f.place n d + 1) := by
    rcases Nat.eq_zero_or_pos (n / d) with h0 | h0
    · rw [h0]; positivity
    · exact (Nat.log2_lt (by omega)).mp (by unfold FloatFormat.place; omega)
  calc n ≤ 2 ^ (k + f.place n d + 1) * d := ((Nat.div_lt_iff_lt_mul hd).mp hq).le
    _ = 2 * f.hidden * (d * 2 ^ f.place n d) := by rw [hk, pow_succ, pow_add]; ring

/-- Above the least last place the quotient fills the significand. -/
theorem FloatFormat.place_le (f : FloatFormat) {k n d : Nat} (hk : f.hidden = 2 ^ k) (hd : 0 < d)
    (hu : f.place n d ≠ 0) : f.hidden * (d * 2 ^ f.place n d) ≤ n := by
  have hlog : Nat.log2 f.hidden = k := by rw [hk]; exact Nat.log2_two_pow
  have hne : n / d ≠ 0 := by
    intro h0
    simp [FloatFormat.place, h0] at hu
  have hq : 2 ^ (k + f.place n d) ≤ n / d :=
    (Nat.le_log2 hne).mp (by unfold FloatFormat.place at hu ⊢; omega)
  calc f.hidden * (d * 2 ^ f.place n d) = 2 ^ (k + f.place n d) * d := by rw [hk, pow_add]; ring
    _ ≤ n := (Nat.le_div_iff_mul_le hd).mp hq

theorem FloatFormat.significand_le (f : FloatFormat) {k n d : Nat} (hk : f.hidden = 2 ^ k)
    (hd : 0 < d) : divNearestEven n (d * 2 ^ f.place n d) ≤ 2 * f.hidden := by
  have hD : 0 < d * 2 ^ f.place n d := by positivity
  rw [← divNearestEven_exact hD (2 * f.hidden)]
  exact divNearestEven_mono hD hD (Nat.mul_le_mul_right _ (f.lt_place hk hd))

theorem FloatFormat.hidden_le_significand (f : FloatFormat) {k n d : Nat} (hk : f.hidden = 2 ^ k)
    (hd : 0 < d) (hu : f.place n d ≠ 0) : f.hidden ≤ divNearestEven n (d * 2 ^ f.place n d) := by
  have hD : 0 < d * 2 ^ f.place n d := by positivity
  have := divNearestEven_mono hD hD (Nat.mul_le_mul_right (d * 2 ^ f.place n d) (f.place_le hk hd hu))
  rwa [divNearestEven_exact hD] at this

/-- What the rounded magnitude is worth. -/
theorem FloatFormat.units_rawRound (f : FloatFormat) {k n d : Nat} (hk : f.hidden = 2 ^ k)
    (hd : 0 < d) : f.units (f.rawRound n d) =
      divNearestEven n (d * 2 ^ f.place n d) * 2 ^ f.place n d := by
  rw [f.rawRound_eq_place]
  apply f.units_place hk (f.significand_le hk hd)
  by_cases hu : f.place n d = 0
  · exact .inl hu
  · exact .inr (f.hidden_le_significand hk hd hu)

/-- A value with few enough significant digits is rounded to itself. -/
theorem FloatFormat.units_rawRound_exact (f : FloatFormat) {k t e : Nat} (hk : f.hidden = 2 ^ k)
    (ht : t < 2 * f.hidden) : f.units (f.rawRound (t * 2 ^ e) 1) = t * 2 ^ e := by
  have hlog : Nat.log2 f.hidden = k := by rw [hk]; exact Nat.log2_two_pow
  have hplace : f.place (t * 2 ^ e) 1 ≤ e := by
    unfold FloatFormat.place
    rw [Nat.div_one, hlog]
    rcases Nat.eq_zero_or_pos t with rfl | hpos
    · simp
    · have hlt : t * 2 ^ e < 2 ^ (k + 1 + e) := by
        rw [pow_add, pow_succ, ← hk]
        exact Nat.mul_lt_mul_of_pos_right (by omega) (by positivity)
      have := (Nat.log2_lt (by positivity)).mpr hlt
      omega
  obtain ⟨rest, hrest⟩ := Nat.exists_eq_add_of_le hplace
  rw [f.units_rawRound hk one_pos]
  generalize f.place (t * 2 ^ e) 1 = u at hrest
  rw [Nat.one_mul, hrest, show t * 2 ^ (u + rest) = t * 2 ^ rest * 2 ^ u by rw [pow_add]; ring,
    divNearestEven_exact (by positivity)]

/-- No magnitude is nearer to the quotient than the rounded one, and only an even one shares its place. -/
theorem FloatFormat.rawRound_nearest (f : FloatFormat) {k n d : Nat} (hk : f.hidden = 2 ^ (k + 1))
    (hd : 0 < d) (m : Nat) :
    |(n : ℤ) - f.units (f.rawRound n d) * d| ≤ |(n : ℤ) - f.units m * d| ∧
    (|(n : ℤ) - f.units (f.rawRound n d) * d| = |(n : ℤ) - f.units m * d| →
      m = f.rawRound n d ∨ f.rawRound n d % 2 = 0) := by
  have hparity : f.rawRound n d % 2 = divNearestEven n (d * 2 ^ f.place n d) % 2 := by
    rw [f.rawRound_eq_place, hk, pow_succ, ← mul_assoc, Nat.mul_add_mod']
  have hworth := f.units_rawRound (n := n) hk hd
  have hinj := (f.units_strictMono hk).injective
  rw [hparity]
  have hlow := f.place_le (n := n) hk hd
  have hbelow := f.units_place (u := f.place n d) (t := f.hidden) hk (by omega) (.inr le_rfl)
  generalize f.rawRound n d = r at hworth hinj ⊢
  generalize f.place n d = u at hworth hlow hbelow ⊢
  have hD : 0 < d * 2 ^ u := by positivity
  have scale : ∀ j : Nat, (((j * 2 ^ u : ℕ) : ℤ)) * d = j * (d * 2 ^ u : ℕ) := by
    intro j; push_cast; ring
  rw [hworth, scale]
  by_cases hm : u = 0 ∨ (u + 1) * f.hidden ≤ m
  · obtain ⟨j, hj⟩ := f.units_multiple hk hm
    rw [hj, scale]
    obtain ⟨nearest, tie⟩ := divNearestEven_nearest n j hD
    refine ⟨nearest, fun h => (tie h).imp_left fun heq => hinj ?_⟩
    rw [hj, hworth, heq]
  · have hlt : f.units m < f.hidden * 2 ^ u := by
      rw [← hbelow]
      exact f.units_strictMono hk (by rw [← Nat.add_one_mul]; omega)
    obtain ⟨nearest, -⟩ := divNearestEven_nearest n f.hidden hD
    have hn : (f.hidden : ℤ) * (d * 2 ^ u : ℕ) ≤ n := by exact_mod_cast hlow (by omega)
    have hfar : (f.units m : ℤ) * d < f.hidden * (d * 2 ^ u : ℕ) := by
      rw [← scale]
      exact_mod_cast Nat.mul_lt_mul_of_pos_right hlt hd
    rw [abs_of_nonneg (a := (n : ℤ) - f.hidden * _) (by linarith)] at nearest
    rw [abs_of_nonneg (a := (n : ℤ) - f.units m * d) (by linarith)]
    exact ⟨by linarith, fun h => by linarith⟩

end Sys2Proof.Machine
end

section
/-! SUPPORT. The real value of a sign and a magnitude, what it is to be the rounding of a rational, and that the operations of Float.lean round the exact result (R8, R9), for every format at once. -/

namespace Sys2Proof.Machine

/-- What the rounding laws need of a format: more than one significand bit, and a magnitude of infinity that is even. -/
structure FloatFormat.Regular (f : FloatFormat) : Prop where
  hidden_eq : ∃ k, f.hidden = 2 ^ (k + 1)
  infMag_even : f.infMag % 2 = 0
  infMag_pos : 0 < f.infMag

theorem binary32_regular : binary32.Regular := ⟨⟨22, by decide⟩, by decide, by decide⟩
theorem binary64_regular : binary64.Regular := ⟨⟨51, by decide⟩, by decide, by decide⟩

variable {f : FloatFormat}

theorem FloatFormat.Regular.units_strictMono (hf : f.Regular) : StrictMono f.units :=
  let ⟨_, hk⟩ := hf.hidden_eq
  f.units_strictMono hk

@[simp] theorem FloatFormat.Regular.units_zero (hf : f.Regular) : f.units 0 = 0 :=
  let ⟨_, hk⟩ := hf.hidden_eq
  f.units_zero hk

@[simp] theorem FloatFormat.Regular.units_eq_zero (hf : f.Regular) {m : Nat} :
    f.units m = 0 ↔ m = 0 := by
  rw [← hf.units_strictMono.injective.eq_iff (a := m), hf.units_zero]

/-! ## The value of a sign and a magnitude -/

/-- A sign as a factor. -/
def signFactor (neg : Bool) : ℚ := if neg then -1 else 1

@[simp] theorem signFactor_true : signFactor true = -1 := rfl
@[simp] theorem signFactor_false : signFactor false = 1 := rfl
@[simp] theorem signFactor_not (b : Bool) : signFactor (!b) = -signFactor b := by cases b <;> simp
@[simp] theorem abs_signFactor (b : Bool) : |signFactor b| = 1 := by cases b <;> simp
theorem signFactor_bne (a b : Bool) : signFactor (a != b) = signFactor a * signFactor b := by
  cases a <;> cases b <;> simp
theorem signFactor_ne_zero (b : Bool) : signFactor b ≠ 0 := by cases b <;> simp

/-- The real value of a finite sign and magnitude (R8). -/
def FloatFormat.signedValue (f : FloatFormat) (v : SignMag) : ℚ :=
  signFactor v.neg * ((f.units v.mag : ℚ) / 2 ^ f.unit)

theorem FloatFormat.abs_signedValue (f : FloatFormat) (v : SignMag) :
    |f.signedValue v| = (f.units v.mag : ℚ) / 2 ^ f.unit := by
  rw [FloatFormat.signedValue, abs_mul, abs_signFactor, one_mul, abs_of_nonneg (by positivity)]

theorem FloatFormat.Regular.signedValue_eq_zero (hf : f.Regular) {v : SignMag} :
    f.signedValue v = 0 ↔ v.mag = 0 := by
  rw [← abs_eq_zero, f.abs_signedValue]
  simp [hf]

/-- The magnitude with its sign, as an integer. -/
def SignMag.key (v : SignMag) : Int := if v.neg then -(v.mag : Int) else (v.mag : Int)

/-- The values of a format are ordered as their signed magnitudes. -/
theorem FloatFormat.Regular.signedValue_lt_iff (hf : f.Regular) (x y : SignMag) :
    f.signedValue x < f.signedValue y ↔ x.key < y.key := by
  have hlt := hf.units_strictMono.lt_iff_lt (a := x.mag) (b := y.mag)
  have hgt := hf.units_strictMono.lt_iff_lt (a := y.mag) (b := x.mag)
  have hpos : 0 < f.units x.mag + f.units y.mag ↔ 0 < x.mag + y.mag := by
    have hx := hf.units_eq_zero (m := x.mag)
    have hy := hf.units_eq_zero (m := y.mag)
    omega
  simp only [FloatFormat.signedValue, SignMag.key, mul_div_assoc']
  rw [div_lt_div_iff_of_pos_right (by positivity)]
  rcases x.neg <;> rcases y.neg <;> simp only [signFactor_true, signFactor_false, if_true, if_false,
    Bool.false_eq_true, one_mul, neg_one_mul]
  · exact_mod_cast hlt
  · have : ¬ (f.units x.mag : ℚ) < -f.units y.mag := by
      have : (0 : ℚ) ≤ f.units x.mag + f.units y.mag := by positivity
      linarith
    exact iff_of_false this (by omega)
  · rw [neg_lt_iff_pos_add', neg_lt_iff_pos_add']
    exact_mod_cast hpos
  · rw [neg_lt_neg_iff, neg_lt_neg_iff]
    exact_mod_cast hgt

/-- The overflow threshold (R9): half way between the largest finite value and the one that would follow it. -/
def FloatFormat.overflow (f : FloatFormat) : ℚ :=
  ((f.units f.infMag : ℚ) + f.units (f.infMag - 1)) / 2 / 2 ^ f.unit

/-- `v` is the rounding of `q` to nearest, ties to even, overflowing to infinity (R9). -/
def FloatFormat.RoundsTo (f : FloatFormat) (q : ℚ) (v : SignMag) : Prop :=
  (v.mag < f.infMag ∧ |q| < f.overflow ∧
    ∀ z : SignMag, z.mag < f.infMag →
      |q - f.signedValue v| ≤ |q - f.signedValue z| ∧
      (|q - f.signedValue v| = |q - f.signedValue z| →
        f.signedValue z = f.signedValue v ∨ v.mag % 2 = 0)) ∨
  (v.mag = f.infMag ∧ f.overflow ≤ |q| ∧ v.neg = decide (q < 0))

theorem FloatFormat.RoundsTo.mag_le {q : ℚ} {v : SignMag} (h : f.RoundsTo q v) :
    v.mag ≤ f.infMag := by
  rcases h with ⟨hlt, -⟩ | ⟨heq, -⟩ <;> omega

/-- `rawRound_nearest` in rationals. -/
theorem FloatFormat.Regular.rawRound_nearest (hf : f.Regular) (n m : Nat) {d : Nat} (hd : 0 < d) :
    |(n : ℚ) / d - f.units (f.rawRound n d)| ≤ |(n : ℚ) / d - f.units m| ∧
    (|(n : ℚ) / d - f.units (f.rawRound n d)| = |(n : ℚ) / d - f.units m| →
      m = f.rawRound n d ∨ f.rawRound n d % 2 = 0) := by
  obtain ⟨k, hk⟩ := hf.hidden_eq
  have hd' : (0 : ℚ) < d := by exact_mod_cast hd
  have scaled : ∀ j : Nat, |(n : ℚ) / d - f.units j| = (|(n : ℤ) - f.units j * d| : ℤ) / (d : ℚ) := by
    intro j
    push_cast
    rw [eq_div_iff hd'.ne', ← abs_of_pos hd', ← abs_mul, abs_of_pos hd', sub_mul,
      div_mul_cancel₀ _ hd'.ne']
  rw [scaled, scaled, div_le_div_iff_of_pos_right hd', div_left_inj' hd'.ne']
  exact_mod_cast f.rawRound_nearest hk hd m

/-- The rounding stays finite exactly below the overflow threshold. -/
theorem FloatFormat.Regular.rawRound_lt_infMag_iff (hf : f.Regular) (n : Nat) {d : Nat} (hd : 0 < d) :
    f.rawRound n d < f.infMag ↔
      (n : ℚ) / d < ((f.units f.infMag : ℚ) + f.units (f.infMag - 1)) / 2 := by
  have hpos := hf.infMag_pos
  have heven := hf.infMag_even
  obtain ⟨nearInf, tieInf⟩ := hf.rawRound_nearest n f.infMag hd
  obtain ⟨nearMax, -⟩ := hf.rawRound_nearest n (f.infMag - 1) hd
  have hgap : (f.units (f.infMag - 1) : ℚ) < f.units f.infMag := by
    exact_mod_cast hf.units_strictMono (by omega : f.infMag - 1 < f.infMag)
  generalize f.rawRound n d = r at *
  generalize (n : ℚ) / d = x at *
  constructor
  · intro hr
    by_contra! habove
    have hle : (f.units r : ℚ) ≤ f.units (f.infMag - 1) := by
      exact_mod_cast hf.units_strictMono.monotone (by omega : r ≤ f.infMag - 1)
    have hfar : |x - f.units f.infMag| ≤ x - f.units (f.infMag - 1) := by
      rw [abs_le]; constructor <;> linarith
    rw [abs_of_nonneg (a := x - f.units r) (by linarith)] at nearInf tieInf
    have hmax : r = f.infMag - 1 := hf.units_strictMono.injective (by
      have : (f.units r : ℚ) = f.units (f.infMag - 1) := by linarith
      exact_mod_cast this)
    rcases tieInf (by linarith) with h | h <;> omega
  · intro hbelow
    by_contra! hr
    have hge : (f.units f.infMag : ℚ) ≤ f.units r := by
      exact_mod_cast hf.units_strictMono.monotone hr
    have hfar : |x - f.units (f.infMag - 1)| < f.units r - x := by
      rw [abs_lt]; constructor <;> linarith
    rw [abs_sub_comm, abs_of_nonneg (a := (f.units r : ℚ) - x) (by linarith)] at nearMax
    linarith

/-- A magnitude nearest to `|q|` under the sign of `q` is nearest to `q` among all signed values. -/
theorem FloatFormat.Regular.nearest_of_magnitude (hf : f.Regular) {a : ℚ} {neg : Bool} {r : Nat}
    (ha : 0 ≤ a)
    (h : ∀ m, |a - f.units r| ≤ |a - f.units m| ∧
      (|a - f.units r| = |a - f.units m| → m = r ∨ r % 2 = 0)) (z : SignMag) :
    |signFactor neg * (a / 2 ^ f.unit) - f.signedValue ⟨neg, r⟩| ≤
      |signFactor neg * (a / 2 ^ f.unit) - f.signedValue z| ∧
    (|signFactor neg * (a / 2 ^ f.unit) - f.signedValue ⟨neg, r⟩| =
        |signFactor neg * (a / 2 ^ f.unit) - f.signedValue z| →
      f.signedValue z = f.signedValue ⟨neg, r⟩ ∨ r % 2 = 0) := by
  have hU : (0 : ℚ) < 2 ^ f.unit := by positivity
  obtain ⟨nearest, tie⟩ := h z.mag
  have hdist : |signFactor neg * (a / 2 ^ f.unit) - f.signedValue ⟨neg, r⟩| =
      |a - f.units r| / 2 ^ f.unit := by
    rw [FloatFormat.signedValue, ← mul_sub, abs_mul, abs_signFactor, one_mul, ← sub_div, abs_div,
      abs_of_pos hU]
  have hfar : |a - f.units z.mag| / 2 ^ f.unit ≤
      |signFactor neg * (a / 2 ^ f.unit) - f.signedValue z| := by
    have := abs_abs_sub_abs_le_abs_sub (signFactor neg * (a / 2 ^ f.unit)) (f.signedValue z)
    rwa [f.abs_signedValue, abs_mul, abs_signFactor, one_mul, abs_of_nonneg (by positivity : 0 ≤ a / 2 ^ f.unit),
      ← sub_div, abs_div, abs_of_pos hU] at this
  have hnear := div_le_div_of_nonneg_right nearest hU.le
  refine ⟨by linarith, fun heq => ?_⟩
  have htie : |a - f.units r| = |a - f.units z.mag| := by
    rw [← div_left_inj' hU.ne']
    linarith
  refine (tie htie).imp_left fun hmag => ?_
  by_cases hneg : z.neg = neg
  · rw [FloatFormat.signedValue, FloatFormat.signedValue, hneg, hmag]
  · have hopp : f.signedValue z = -f.signedValue ⟨neg, r⟩ := by
      rw [FloatFormat.signedValue, FloatFormat.signedValue, hmag,
        Bool.eq_not.mpr hneg, signFactor_not, neg_mul]
    suffices hzero : f.signedValue ⟨neg, r⟩ = 0 by rw [hopp, hzero, neg_zero]
    rw [hopp, sub_neg_eq_add] at heq
    rcases abs_eq_abs.mp heq with same | opposite
    · linarith
    · have ha0 : a = 0 := by
        have : signFactor neg * (a / 2 ^ f.unit) = 0 := by linarith
        simpa [signFactor_ne_zero] using this
      have := (h 0).1
      rw [ha0, hf.units_zero] at this
      rw [hf.signedValue_eq_zero]
      simpa [hf] using this

/-- `roundUnits` is the rounding of the signed quotient in units of the smallest subnormal. -/
theorem FloatFormat.Regular.roundsTo_roundUnits (hf : f.Regular) (neg : Bool) (n : Nat) {d : Nat}
    (hd : 0 < d) :
    f.RoundsTo (signFactor neg * ((n : ℚ) / d / 2 ^ f.unit)) ⟨neg, f.roundUnits n d⟩ := by
  have hx : (0 : ℚ) ≤ (n : ℚ) / d := by positivity
  have habs : |signFactor neg * ((n : ℚ) / d / 2 ^ f.unit)| = (n : ℚ) / d / 2 ^ f.unit := by
    rw [abs_mul, abs_signFactor, one_mul, abs_of_nonneg (by positivity)]
  have hfinite := hf.rawRound_lt_infMag_iff n hd
  unfold FloatFormat.RoundsTo FloatFormat.overflow
  rw [habs, div_lt_div_iff_of_pos_right (by positivity), div_le_div_iff_of_pos_right (by positivity),
    ← hfinite, ← not_lt, ← hfinite, f.roundUnits_eq]
  rcases Nat.lt_or_ge (f.rawRound n d) f.infMag with finite | overflows
  · left
    rw [min_eq_left finite.le]
    exact ⟨finite, finite, fun z _ => hf.nearest_of_magnitude hx (fun m => hf.rawRound_nearest n m hd) z⟩
  · right
    rw [min_eq_right overflows]
    refine ⟨rfl, overflows.not_gt, ?_⟩
    have hpos : (0 : ℚ) < (n : ℚ) / d / 2 ^ f.unit := by
      rw [ge_iff_le, ← not_lt, hfinite, not_lt] at overflows
      have : (0 : ℚ) < f.units f.infMag := by
        exact_mod_cast Nat.pos_of_ne_zero (by simp [hf, hf.infMag_pos.ne'])
      apply div_pos (by linarith [Nat.cast_nonneg (α := ℚ) (f.units (f.infMag - 1))]) (by positivity)
    cases neg <;> simp [hpos, hpos.le]

/-- With divisor 1 and no sign: the rounding of a multiple of the smallest subnormal. -/
theorem FloatFormat.Regular.roundsTo_roundUnits_one (hf : f.Regular) (neg : Bool) (n : Nat) :
    f.RoundsTo (signFactor neg * ((n : ℚ) / 2 ^ f.unit)) ⟨neg, f.roundUnits n 1⟩ := by
  simpa using hf.roundsTo_roundUnits neg n one_pos

/-! ## The operations on finite operands -/

/-- Only operands of one magnitude cancel. -/
theorem FloatFormat.units_eq_of_add_eq_zero (f : FloatFormat) {x y : SignMag}
    (h : f.signedValue x + f.signedValue y = 0) : f.units x.mag = f.units y.mag := by
  have habs : |f.signedValue x| = |f.signedValue y| := by rw [eq_neg_of_add_eq_zero_left h, abs_neg]
  rw [f.abs_signedValue, f.abs_signedValue, div_left_inj' (by positivity)] at habs
  exact_mod_cast habs

/-- Addition rounds the exact sum, and an exact zero is negative only for two negative operands. -/
theorem FloatFormat.Regular.addSM_finite (hf : f.Regular) {x y : SignMag} (hx : x.mag < f.infMag)
    (hy : y.mag < f.infMag) : ∃ v, f.addSM x y = some v ∧
      f.RoundsTo (f.signedValue x + f.signedValue y) v ∧
      (f.signedValue x + f.signedValue y = 0 → v.neg = (x.neg && y.neg)) := by
  have hU : (0 : ℚ) < 2 ^ f.unit := by positivity
  simp only [FloatFormat.addSM, hx.not_gt, hy.not_gt, hx.ne, hy.ne, decide_false, Bool.or_self,
    Bool.false_eq_true, if_false]
  split_ifs with same equal less
  · refine ⟨_, rfl, ?_, fun _ => by simp [same]⟩
    convert hf.roundsTo_roundUnits_one x.neg (f.units x.mag + f.units y.mag) using 1
    rw [FloatFormat.signedValue, FloatFormat.signedValue, ← same]
    push_cast
    ring
  · have hopp : y.neg = !x.neg := Bool.eq_not.mpr (Ne.symm same)
    refine ⟨_, rfl, ?_, fun _ => by simp [hopp]⟩
    convert hf.roundsTo_roundUnits_one false 0 using 2
    · rw [FloatFormat.signedValue, FloatFormat.signedValue, hopp, equal, signFactor_not]
      push_cast
      ring
    · rw [f.roundUnits_zero]
  · have hopp : y.neg = !x.neg := Bool.eq_not.mpr (Ne.symm same)
    refine ⟨_, rfl, ?_, fun hzero => absurd (f.units_eq_of_add_eq_zero hzero) equal⟩
    convert hf.roundsTo_roundUnits_one x.neg (f.units x.mag - f.units y.mag) using 1
    rw [FloatFormat.signedValue, FloatFormat.signedValue, hopp, signFactor_not, Nat.cast_sub less.le]
    ring
  · have hopp : x.neg = !y.neg := Bool.eq_not.mpr same
    refine ⟨_, rfl, ?_, fun hzero => absurd (f.units_eq_of_add_eq_zero hzero) equal⟩
    convert hf.roundsTo_roundUnits_one y.neg (f.units y.mag - f.units x.mag) using 1
    rw [FloatFormat.signedValue, FloatFormat.signedValue, hopp, signFactor_not,
      Nat.cast_sub (not_lt.mp less)]
    ring

/-- Multiplication rounds the exact product under the exclusive-or of the signs. -/
theorem FloatFormat.Regular.mulSM_finite (hf : f.Regular) {x y : SignMag} (hx : x.mag < f.infMag)
    (hy : y.mag < f.infMag) : ∃ v, f.mulSM x y = some v ∧
      f.RoundsTo (f.signedValue x * f.signedValue y) v ∧ v.neg = (x.neg != y.neg) := by
  simp only [FloatFormat.mulSM, hx.not_gt, hy.not_gt, hx.ne, hy.ne, decide_false, Bool.or_self,
    Bool.false_eq_true, if_false]
  refine ⟨_, rfl, ?_, rfl⟩
  convert hf.roundsTo_roundUnits (x.neg != y.neg) (f.units x.mag * f.units y.mag)
    (by positivity : 0 < 2 ^ f.unit) using 1
  rw [FloatFormat.signedValue, FloatFormat.signedValue, signFactor_bne]
  push_cast
  ring

/-- Division by a non-zero value rounds the exact quotient under the exclusive-or of the signs. -/
theorem FloatFormat.Regular.divSM_finite (hf : f.Regular) {x y : SignMag} (hx : x.mag < f.infMag)
    (hy : y.mag < f.infMag) (hne : y.mag ≠ 0) : ∃ v, f.divSM x y = some v ∧
      f.RoundsTo (f.signedValue x / f.signedValue y) v ∧ v.neg = (x.neg != y.neg) := by
  have hunits : f.units y.mag ≠ 0 := by simpa [hf] using hne
  simp only [FloatFormat.divSM, hx.not_gt, hy.not_gt, hx.ne, hy.ne, hne, decide_false, Bool.or_self,
    Bool.false_eq_true, if_false]
  refine ⟨_, rfl, ?_, rfl⟩
  convert hf.roundsTo_roundUnits (x.neg != y.neg) (f.units x.mag * 2 ^ f.unit)
    (Nat.pos_of_ne_zero hunits) using 1
  have hfactor : signFactor y.neg * signFactor y.neg = 1 := by cases y.neg <;> simp
  rw [FloatFormat.signedValue, FloatFormat.signedValue, signFactor_bne]
  push_cast
  field_simp [signFactor_ne_zero y.neg]
  rw [pow_two, hfactor, mul_one]

end Sys2Proof.Machine
end

section
/-! SUPPORT. binary32 and binary64 patterns as signs and magnitudes: their classes, their values and their order read off the unpacked form, and what the operations on patterns give in those terms (R8, R9, R11). -/

namespace Sys2Proof.Machine

/-- What a magnitude is worth, from its exponent and fraction fields. -/
theorem FloatFormat.units_of_fields (f : FloatFormat) (hpos : 0 < f.hidden) (m : Nat) :
    (f.units m : ℚ) / 2 ^ f.unit =
      if m / f.hidden = 0 then ((m % f.hidden : ℕ) : ℚ) / 2 ^ f.unit
      else (f.hidden + ((m % f.hidden : ℕ) : ℚ)) * 2 ^ (m / f.hidden) / 2 ^ (f.unit + 1) := by
  split_ifs with h
  · have hm : m < f.hidden := (Nat.div_eq_zero_iff_lt hpos).mp h
    rw [f.units_of_lt hm, Nat.mod_eq_of_lt hm]
  · have hm : f.hidden ≤ m := by
      rwa [Nat.div_eq_zero_iff_lt hpos, not_lt] at h
    obtain ⟨e, he⟩ := Nat.exists_eq_succ_of_ne_zero h
    rw [f.units_of_ge hm, he, Nat.succ_sub_one, pow_succ, pow_succ]
    push_cast
    field_simp

/-! ## Unpacked binary32 patterns -/

@[simp] theorem unpack32_neg (x : F32) : (unpack32 x).neg = x.msb := rfl
@[simp] theorem unpack32_mag (x : F32) : (unpack32 x).mag = x.toNat % 2147483648 := rfl

theorem unpack32_mag_lt (x : F32) : (unpack32 x).mag < 2147483648 := Nat.mod_lt _ (by decide)

theorem isFinite32_iff (x : F32) : isFinite32 x = true ↔ (unpack32 x).mag < binary32.infMag :=
  decide_eq_true_iff

theorem isInf32_iff (x : F32) : isInf32 x = true ↔ (unpack32 x).mag = binary32.infMag :=
  decide_eq_true_iff

theorem isNaN32_iff (x : F32) : isNaN32 x = true ↔ binary32.infMag < (unpack32 x).mag :=
  decide_eq_true_iff

theorem isNaN32_eq_false_iff (x : F32) : isNaN32 x = false ↔ (unpack32 x).mag ≤ binary32.infMag := by
  rw [← Bool.not_eq_true, isNaN32_iff, not_lt]

theorem isZero32_iff (x : F32) : isZero32 x = true ↔ (unpack32 x).mag = 0 :=
  decide_eq_true_iff

theorem isZero32_eq_false_iff (x : F32) : isZero32 x = false ↔ (unpack32 x).mag ≠ 0 := by
  rw [← Bool.not_eq_true, isZero32_iff]

theorem isSubnormal32_iff (x : F32) :
    isSubnormal32 x = true ↔ 0 < (unpack32 x).mag ∧ (unpack32 x).mag < binary32.hidden := by
  rw [isSubnormal32, Bool.and_eq_true, decide_eq_true_iff, decide_eq_true_iff]
  exact Iff.rfl

theorem isNaN32_of_isFinite32 {x : F32} (h : isFinite32 x = true) : isNaN32 x = false :=
  (isNaN32_eq_false_iff x).mpr ((isFinite32_iff x).mp h).le

theorem isNaN32_of_isInf32 {x : F32} (h : isInf32 x = true) : isNaN32 x = false :=
  (isNaN32_eq_false_iff x).mpr ((isInf32_iff x).mp h).le

theorem unpack32_injective : Function.Injective unpack32 := fun x y h => by
  rw [← pack32_unpack32 x, ← pack32_unpack32 y, h]

@[simp] theorem unpack32_flipSign (x : F32) : unpack32 (flipSign x) = ⟨!x.msb, (unpack32 x).mag⟩ := by
  have hmsb : (flipSign x).msb = !x.msb := by
    rw [flipSign, BitVec.msb_xor, show (2147483648#32).msb = true by decide, Bool.xor_true]
  rw [unpack32, flipSign_toNat_mod, hmsb]
  rfl

@[simp] theorem unpack32_clearSign (x : F32) : unpack32 (clearSign x) = ⟨false, (unpack32 x).mag⟩ := by
  have hmag : (clearSign x).toNat = x.toNat % 2147483648 := by
    rw [clearSign, BitVec.toNat_and]
    exact Nat.and_two_pow_sub_one_eq_mod x.toNat 31
  have hmsb : (clearSign x).msb = false := by
    rw [clearSign, BitVec.msb_and, show (2147483647#32).msb = false by decide, Bool.and_false]
  rw [unpack32, hmag, hmsb, Nat.mod_mod]
  rfl

@[simp] theorem flipSign_flipSign (x : F32) : flipSign (flipSign x) = x := by
  simp [flipSign]

/-- The value of a pattern is that of its sign and magnitude. -/
theorem value32_eq (x : F32) : value32 x = binary32.signedValue (unpack32 x) := by
  have hexp : (x.extractLsb' 23 8).toNat = (unpack32 x).mag / binary32.hidden := by
    rw [BitVec.extractLsb'_toNat, Nat.shiftRight_eq_div_pow, unpack32_mag]
    show x.toNat / 8388608 % 256 = x.toNat % 2147483648 / 8388608
    omega
  have hfrac : (x.extractLsb' 0 23).toNat = (unpack32 x).mag % binary32.hidden := by
    rw [BitVec.extractLsb'_toNat, Nat.shiftRight_zero, unpack32_mag]
    show x.toNat % 8388608 = x.toNat % 2147483648 % 8388608
    omega
  rw [value32, hexp, hfrac, FloatFormat.signedValue, binary32.units_of_fields (by decide)]
  rfl

theorem value32_flipSign (x : F32) : value32 (flipSign x) = -value32 x := by
  rw [value32_eq, value32_eq, unpack32_flipSign]
  simp [FloatFormat.signedValue]

theorem getLsbD_zero_eq_false_iff (x : F32) : x.getLsbD 0 = false ↔ (unpack32 x).mag % 2 = 0 := by
  rw [BitVec.getLsbD, Nat.testBit_zero, decide_eq_false_iff_not, unpack32_mag]
  omega

/-- Rounding to a pattern is rounding to its sign and magnitude. -/
theorem rounds32_iff (q : ℚ) (r : F32) : Rounds32 q r ↔ binary32.RoundsTo q (unpack32 r) := by
  have hthreshold : (2 : ℚ) ^ 128 - 2 ^ 103 = binary32.overflow := by decide +kernel
  simp only [Rounds32, FloatFormat.RoundsTo, value32_eq, isFinite32_iff, isInf32_iff, hthreshold,
    getLsbD_zero_eq_false_iff]
  refine or_congr (and_congr_right fun _ => and_congr_right fun _ => ⟨?_, ?_⟩) Iff.rfl
  · rintro ⟨nearest, tie⟩ v hv
    have hpack := unpack32_pack32 (hv.trans (by decide) : v.mag < 2147483648)
    rw [← hpack] at hv ⊢
    exact ⟨nearest _ hv, tie _ hv⟩
  · exact fun h => ⟨fun z hz => (h _ hz).1, fun z hz => (h _ hz).2⟩

/-! ## Results of binary32 operations -/

/-- With FTZ false a result is the pattern of its sign and magnitude. -/
theorem result32_some {c : Cfg} (h : c.ftz = false) (src : NanSource) (a b : BitVec 64) (v : SignMag) :
    result32 c src a b (some v) = pack32 v := by
  simp [result32, flushMag, h]

/-- A rounded magnitude fits its pattern. -/
theorem mag32_lt {v : SignMag} (h : v.mag ≤ binary32.infMag) : v.mag < 2147483648 :=
  h.trans_lt (by decide)

/-- The pattern of a rounding is the rounding. -/
theorem rounds32_pack32 {q : ℚ} {v : SignMag} (h : binary32.RoundsTo q v) : Rounds32 q (pack32 v) := by
  rwa [rounds32_iff, unpack32_pack32 (mag32_lt h.mag_le)]

/-! ## Comparison of binary32 values -/

/-- `flt` on values that are no NaN. -/
theorem flt_eq_true_iff {a b : F32} (ha : isNaN32 a = false) (hb : isNaN32 b = false) :
    flt a b = true ↔ (unpack32 a).key < (unpack32 b).key := by
  rw [flt, ha, hb]
  exact decide_eq_true_iff

/-- `fle` on values that are no NaN. -/
theorem fle_eq_true_iff {a b : F32} (ha : isNaN32 a = false) (hb : isNaN32 b = false) :
    fle a b = true ↔ (unpack32 a).key ≤ (unpack32 b).key := by
  rw [fle, ha, hb]
  exact decide_eq_true_iff

/-- Signed magnitudes are ordered as the values. -/
theorem value32_lt_iff (a b : F32) : value32 a < value32 b ↔ (unpack32 a).key < (unpack32 b).key := by
  rw [value32_eq, value32_eq, binary32_regular.signedValue_lt_iff]

theorem value32_le_iff (a b : F32) : value32 a ≤ value32 b ↔ (unpack32 a).key ≤ (unpack32 b).key := by
  rw [← not_lt, value32_lt_iff, not_lt]

/-! ## Unpacked binary64 patterns -/

@[simp] theorem unpack64_neg (x : F64) : (unpack64 x).neg = x.msb := rfl
@[simp] theorem unpack64_mag (x : F64) : (unpack64 x).mag = x.toNat % 9223372036854775808 := rfl

theorem pack64_toNat {v : SignMag} (h : v.mag < 9223372036854775808) :
    (pack64 v).toNat = if v.neg then 9223372036854775808 + v.mag else v.mag := by
  unfold pack64
  rw [BitVec.toNat_ofNat]
  split <;> omega

theorem unpack64_pack64 {v : SignMag} (h : v.mag < 9223372036854775808) : unpack64 (pack64 v) = v := by
  obtain ⟨neg, mag⟩ := v
  have hmsb : (pack64 ⟨neg, mag⟩).msb = neg := by
    rw [BitVec.msb_eq_decide, pack64_toNat h]
    cases neg
    · simpa using h
    · simp
  unfold unpack64
  rw [hmsb, pack64_toNat h]
  congr 1
  dsimp only at h ⊢
  split <;> omega

theorem isFinite64_iff (x : F64) : isFinite64 x = true ↔ (unpack64 x).mag < binary64.infMag :=
  decide_eq_true_iff

theorem isNaN64_iff (x : F64) : isNaN64 x = true ↔ binary64.infMag < (unpack64 x).mag :=
  decide_eq_true_iff

theorem isNaN64_of_isFinite64 {x : F64} (h : isFinite64 x = true) : isNaN64 x = false := by
  rw [← Bool.not_eq_true, isNaN64_iff, not_lt]
  exact ((isFinite64_iff x).mp h).le

@[simp] theorem unpack64_dneg (x : F64) : unpack64 (dneg x) = ⟨!x.msb, (unpack64 x).mag⟩ := by
  have hmag : (dneg x).toNat % 9223372036854775808 = x.toNat % 9223372036854775808 := by
    rw [dneg, BitVec.toNat_xor, show (9223372036854775808 : Nat) = 2 ^ 63 by norm_num, Nat.xor_mod_two_pow]
    simp
  have hmsb : (dneg x).msb = !x.msb := by
    rw [dneg, BitVec.msb_xor, show (9223372036854775808#64).msb = true by decide, Bool.xor_true]
  rw [unpack64, hmag, hmsb]
  rfl

/-- The value of a pattern is that of its sign and magnitude. -/
theorem value64_eq (x : F64) : value64 x = binary64.signedValue (unpack64 x) := by
  have hexp : (x.extractLsb' 52 11).toNat = (unpack64 x).mag / binary64.hidden := by
    rw [BitVec.extractLsb'_toNat, Nat.shiftRight_eq_div_pow, unpack64_mag]
    show x.toNat / 4503599627370496 % 2048 = x.toNat % 9223372036854775808 / 4503599627370496
    omega
  have hfrac : (x.extractLsb' 0 52).toNat = (unpack64 x).mag % binary64.hidden := by
    rw [BitVec.extractLsb'_toNat, Nat.shiftRight_zero, unpack64_mag]
    show x.toNat % 4503599627370496 = x.toNat % 9223372036854775808 % 4503599627370496
    omega
  rw [value64, hexp, hfrac, FloatFormat.signedValue, binary64.units_of_fields (by decide)]
  rfl

theorem value64_dneg (x : F64) : value64 (dneg x) = -value64 x := by
  rw [value64_eq, value64_eq, unpack64_dneg]
  simp [FloatFormat.signedValue]

theorem value64_eq_zero_iff (x : F64) : value64 x = 0 ↔ (unpack64 x).mag = 0 := by
  rw [value64_eq, binary64_regular.signedValue_eq_zero]

/-- Rounding to a pattern is rounding to its sign and magnitude. -/
theorem rounds64_iff (q : ℚ) (r : F64) : Rounds64 q r ↔ binary64.RoundsTo q (unpack64 r) := by
  have hthreshold : (2 : ℚ) ^ 1024 - 2 ^ 970 = binary64.overflow := by decide +kernel
  have heven : r.getLsbD 0 = false ↔ (unpack64 r).mag % 2 = 0 := by
    rw [BitVec.getLsbD, Nat.testBit_zero, decide_eq_false_iff_not, unpack64_mag]
    omega
  simp only [Rounds64, FloatFormat.RoundsTo, value64_eq, isFinite64_iff, hthreshold, heven]
  refine or_congr (and_congr_right fun _ => and_congr_right fun _ => ⟨?_, ?_⟩) ?_
  · rintro ⟨nearest, tie⟩ v hv
    have hpack := unpack64_pack64 (hv.trans (by decide) : v.mag < 9223372036854775808)
    rw [← hpack] at hv ⊢
    exact ⟨nearest _ hv, tie _ hv⟩
  · exact fun h => ⟨fun z hz => (h _ hz).1, fun z hz => (h _ hz).2⟩
  · rw [← and_assoc, ← Bool.not_eq_true, ← Bool.not_eq_true, isNaN64_iff, isFinite64_iff, not_lt,
      not_lt, ← le_antisymm_iff]
    exact Iff.rfl

/-- The pattern of a rounding is the rounding. -/
theorem unpack64_pack64_of_roundsTo {q : ℚ} {v : SignMag} (h : binary64.RoundsTo q v) :
    unpack64 (pack64 v) = v :=
  unpack64_pack64 (h.mag_le.trans_lt (by decide))

theorem rounds64_pack64 {q : ℚ} {v : SignMag} (h : binary64.RoundsTo q v) : Rounds64 q (pack64 v) := by
  rwa [rounds64_iff, unpack64_pack64_of_roundsTo h]

/-- `dlt` orders finite values. -/
theorem dlt_eq_true_iff {a b : F64} (ha : isFinite64 a = true) (hb : isFinite64 b = true) :
    dlt a b = true ↔ value64 a < value64 b := by
  rw [value64_eq, value64_eq, binary64_regular.signedValue_lt_iff, dlt, isNaN64_of_isFinite64 ha,
    isNaN64_of_isFinite64 hb]
  exact decide_eq_true_iff

end Sys2Proof.Machine
end

section
/-! The four operations round the exact result, and what they give for zeros, infinities and NaNs (R9). -/

namespace Sys2Proof.Machine

/-! ## Finite operands -/

section
variable {c : Cfg} {a b : F32} (hc : c.ftz = false) (ha : isFinite32 a = true) (hb : isFinite32 b = true)
include hc ha hb

/-- The sum is rounded once, and an exact zero is negative only for two negative operands. -/
theorem fadd_finite : Rounds32 (value32 a + value32 b) (fadd c a b) ∧
    (value32 a + value32 b = 0 → (fadd c a b).msb = (a.msb && b.msb)) := by
  obtain ⟨v, hv, rounds, sign⟩ :=
    binary32_regular.addSM_finite ((isFinite32_iff a).mp ha) ((isFinite32_iff b).mp hb)
  rw [value32_eq a, value32_eq b, fadd, hv, result32_some hc, pack32_msb (mag32_lt rounds.mag_le)]
  exact ⟨rounds32_pack32 rounds, sign⟩

/-- The difference is the sum with the second operand's sign flipped. -/
theorem fsub_finite : Rounds32 (value32 a - value32 b) (fsub c a b) ∧
    (value32 a - value32 b = 0 → (fsub c a b).msb = (a.msb && !b.msb)) := by
  obtain ⟨v, hv, rounds, sign⟩ := binary32_regular.addSM_finite ((isFinite32_iff a).mp ha)
    (y := unpack32 (flipSign b)) (by simpa using (isFinite32_iff b).mp hb)
  rw [← value32_eq a, ← value32_eq (flipSign b), value32_flipSign, ← sub_eq_add_neg] at rounds sign
  rw [fsub, hv, result32_some hc, pack32_msb (mag32_lt rounds.mag_le)]
  exact ⟨rounds32_pack32 rounds, by simpa using sign⟩

theorem fmul_finite : Rounds32 (value32 a * value32 b) (fmul c a b) ∧
    (fmul c a b).msb = (a.msb != b.msb) := by
  obtain ⟨v, hv, rounds, sign⟩ :=
    binary32_regular.mulSM_finite ((isFinite32_iff a).mp ha) ((isFinite32_iff b).mp hb)
  rw [value32_eq a, value32_eq b, fmul, hv, result32_some hc, pack32_msb (mag32_lt rounds.mag_le)]
  exact ⟨rounds32_pack32 rounds, sign⟩

theorem fdiv_finite (hne : isZero32 b = false) : Rounds32 (value32 a / value32 b) (fdiv c a b) ∧
    (fdiv c a b).msb = (a.msb != b.msb) := by
  obtain ⟨v, hv, rounds, sign⟩ := binary32_regular.divSM_finite ((isFinite32_iff a).mp ha)
    ((isFinite32_iff b).mp hb) ((isZero32_eq_false_iff b).mp hne)
  rw [value32_eq a, value32_eq b, fdiv, hv, result32_some hc, pack32_msb (mag32_lt rounds.mag_le)]
  exact ⟨rounds32_pack32 rounds, sign⟩

end

section
variable {a b : F64} (ha : isFinite64 a = true) (hb : isFinite64 b = true)
include ha hb

/-- The sum is rounded once, and an exact zero is negative only for two negative operands. -/
theorem dadd_finite : Rounds64 (value64 a + value64 b) (dadd a b) ∧
    (value64 a + value64 b = 0 → (dadd a b).msb = (a.msb && b.msb)) := by
  obtain ⟨v, hv, rounds, sign⟩ :=
    binary64_regular.addSM_finite ((isFinite64_iff a).mp ha) ((isFinite64_iff b).mp hb)
  rw [value64_eq a, value64_eq b, dadd, hv, result64, ← unpack64_neg (pack64 v),
    unpack64_pack64_of_roundsTo rounds]
  exact ⟨rounds64_pack64 rounds, sign⟩

/-- The difference is the sum with the second operand's sign flipped. -/
theorem dsub_finite : Rounds64 (value64 a - value64 b) (dsub a b) ∧
    (value64 a - value64 b = 0 → (dsub a b).msb = (a.msb && !b.msb)) := by
  obtain ⟨v, hv, rounds, sign⟩ := binary64_regular.addSM_finite ((isFinite64_iff a).mp ha)
    (y := unpack64 (dneg b)) (by simpa using (isFinite64_iff b).mp hb)
  rw [← value64_eq a, ← value64_eq (dneg b), value64_dneg, ← sub_eq_add_neg] at rounds sign
  rw [dsub, hv, result64, ← unpack64_neg (pack64 v), unpack64_pack64_of_roundsTo rounds]
  exact ⟨rounds64_pack64 rounds, by simpa using sign⟩

theorem dmul_finite : Rounds64 (value64 a * value64 b) (dmul a b) ∧
    (dmul a b).msb = (a.msb != b.msb) := by
  obtain ⟨v, hv, rounds, sign⟩ :=
    binary64_regular.mulSM_finite ((isFinite64_iff a).mp ha) ((isFinite64_iff b).mp hb)
  rw [value64_eq a, value64_eq b, dmul, hv, result64, ← unpack64_neg (pack64 v),
    unpack64_pack64_of_roundsTo rounds]
  exact ⟨rounds64_pack64 rounds, sign⟩

theorem ddiv_finite (hne : value64 b ≠ 0) : Rounds64 (value64 a / value64 b) (ddiv a b) ∧
    (ddiv a b).msb = (a.msb != b.msb) := by
  obtain ⟨v, hv, rounds, sign⟩ := binary64_regular.divSM_finite ((isFinite64_iff a).mp ha)
    ((isFinite64_iff b).mp hb) (mt (value64_eq_zero_iff b).mpr hne)
  rw [value64_eq a, value64_eq b, ddiv, hv, result64, ← unpack64_neg (pack64 v),
    unpack64_pack64_of_roundsTo rounds]
  exact ⟨rounds64_pack64 rounds, sign⟩

end

/-- Settles O45: one rounding lemma per operation and format. -/
theorem arithmeticRoundsToNearest : Obligations.ArithmeticRoundsToNearest := by
  constructor
  · intro c a b hc ha hb
    obtain ⟨addRounds, addSign⟩ := fadd_finite hc ha hb
    obtain ⟨subRounds, subSign⟩ := fsub_finite hc ha hb
    obtain ⟨mulRounds, mulSign⟩ := fmul_finite hc ha hb
    exact ⟨addRounds, subRounds, mulRounds, fun hne => (fdiv_finite hc ha hb hne).1, addSign, subSign,
      mulSign, fun hne => (fdiv_finite hc ha hb hne).2⟩
  · intro a b ha hb
    obtain ⟨addRounds, addSign⟩ := dadd_finite ha hb
    obtain ⟨subRounds, subSign⟩ := dsub_finite ha hb
    obtain ⟨mulRounds, mulSign⟩ := dmul_finite ha hb
    exact ⟨addRounds, subRounds, mulRounds, fun hne => (ddiv_finite ha hb hne).1, addSign, subSign,
      mulSign, fun hne => (ddiv_finite ha hb hne).2, dlt_eq_true_iff ha hb⟩

end Sys2Proof.Machine
end

section
/-! Zeros, infinities and NaNs in the four operations, for every FTZ (R9, R271). -/

namespace Sys2Proof.Machine

/-! ## Special operands on signs and magnitudes -/

section
variable {f : FloatFormat} {x y : SignMag}

theorem FloatFormat.addSM_nan (h : f.infMag < x.mag ∨ f.infMag < y.mag) : f.addSM x y = none := by
  simp [FloatFormat.addSM, h]

theorem FloatFormat.mulSM_nan (h : f.infMag < x.mag ∨ f.infMag < y.mag) : f.mulSM x y = none := by
  simp [FloatFormat.mulSM, h]

theorem FloatFormat.divSM_nan (h : f.infMag < x.mag ∨ f.infMag < y.mag) : f.divSM x y = none := by
  simp [FloatFormat.divSM, h]

/-- Opposite infinities have no sum. -/
theorem FloatFormat.addSM_inf_opposite (hx : x.mag = f.infMag) (hy : y.mag = f.infMag)
    (h : x.neg ≠ y.neg) : f.addSM x y = none := by
  simp [FloatFormat.addSM, hx, hy, h]

/-- An infinity stays when what is added is no NaN and not the opposite infinity. -/
theorem FloatFormat.addSM_inf_left (hx : x.mag = f.infMag) (hy : y.mag ≤ f.infMag)
    (h : y.mag = f.infMag → x.neg = y.neg) : f.addSM x y = some x := by
  simp only [FloatFormat.addSM, hx, lt_irrefl, hy.not_gt, decide_false, Bool.or_self,
    Bool.false_eq_true, if_false, if_true]
  rw [if_neg]
  simpa using h

theorem FloatFormat.addSM_inf_right (hx : x.mag < f.infMag) (hy : y.mag = f.infMag) :
    f.addSM x y = some y := by
  simp [FloatFormat.addSM, hx.not_gt, hx.ne, hy]

theorem FloatFormat.mulSM_inf_zero (hx : x.mag = f.infMag) (hy : y.mag = 0) : f.mulSM x y = none := by
  simp [FloatFormat.mulSM, hx, hy]

theorem FloatFormat.mulSM_zero_inf (hpos : 0 < f.infMag) (hx : x.mag = 0) (hy : y.mag = f.infMag) :
    f.mulSM x y = none := by
  simp [FloatFormat.mulSM, hx, hy, hpos.ne]

theorem FloatFormat.mulSM_inf_left (hx : x.mag = f.infMag) (hy : y.mag ≤ f.infMag) (hne : y.mag ≠ 0) :
    f.mulSM x y = some ⟨x.neg != y.neg, f.infMag⟩ := by
  simp [FloatFormat.mulSM, hx, hy.not_gt, hne]

theorem FloatFormat.mulSM_inf_right (hx : x.mag ≤ f.infMag) (hne : x.mag ≠ 0) (hy : y.mag = f.infMag) :
    f.mulSM x y = some ⟨x.neg != y.neg, f.infMag⟩ := by
  have hpos : f.infMag ≠ 0 := by omega
  simp [FloatFormat.mulSM, hx.not_gt, hne, hy, hpos]

theorem FloatFormat.divSM_inf_inf (hx : x.mag = f.infMag) (hy : y.mag = f.infMag) :
    f.divSM x y = none := by
  simp [FloatFormat.divSM, hx, hy]

theorem FloatFormat.divSM_inf_left (hx : x.mag = f.infMag) (hy : y.mag < f.infMag) :
    f.divSM x y = some ⟨x.neg != y.neg, f.infMag⟩ := by
  simp [FloatFormat.divSM, hx, hy.not_gt, hy.ne]

theorem FloatFormat.divSM_inf_right (hx : x.mag < f.infMag) (hy : y.mag = f.infMag) :
    f.divSM x y = some ⟨x.neg != y.neg, 0⟩ := by
  simp [FloatFormat.divSM, hx.not_gt, hx.ne, hy]

theorem FloatFormat.divSM_zero_zero (hpos : 0 < f.infMag) (hx : x.mag = 0) (hy : y.mag = 0) :
    f.divSM x y = none := by
  simp [FloatFormat.divSM, hx, hy, hpos.ne]

theorem FloatFormat.divSM_by_zero (hx : x.mag < f.infMag) (hne : x.mag ≠ 0) (hy : y.mag = 0) :
    f.divSM x y = some ⟨x.neg != y.neg, f.infMag⟩ := by
  have hpos : f.infMag ≠ 0 := by omega
  simp [FloatFormat.divSM, hx.not_gt, hx.ne, hne, hy, hpos.symm]

end

/-! ## Special results of binary32 operations -/

@[simp] theorem isNaN32_result32_none (c : Cfg) (src : NanSource) (a b : BitVec 64) :
    isNaN32 (result32 c src a b none) = true :=
  isNaN32_nan32 src a b

/-- FTZ keeps zeros, normal values and infinities. -/
theorem flushMag_of_not_subnormal (c : Cfg) {m : Nat} (h : m = 0 ∨ binary32.hidden ≤ m) :
    flushMag c m = m := by
  rcases h with h | h
  · simp [flushMag, h]
  · have : ¬ m < 8388608 := not_lt.mpr h
    simp [flushMag, this]

theorem result32_of_not_subnormal (c : Cfg) (src : NanSource) (a b : BitVec 64) {v : SignMag}
    (h : v.mag = 0 ∨ binary32.hidden ≤ v.mag) : result32 c src a b (some v) = pack32 v := by
  rw [result32, flushMag_of_not_subnormal c h]

/-- A result that is the infinity of a pattern is that pattern. -/
theorem result32_of_isInf32 (c : Cfg) (src : NanSource) (a b : BitVec 64) {x : F32}
    (h : isInf32 x = true) : result32 c src a b (some (unpack32 x)) = x := by
  rw [isInf32_iff] at h
  rw [result32_of_not_subnormal c src a b (.inr (h ▸ by decide)), pack32_unpack32]

theorem result32_infinite (c : Cfg) (src : NanSource) (a b : BitVec 64) (neg : Bool) :
    isInf32 (result32 c src a b (some ⟨neg, binary32.infMag⟩)) = true ∧
    (result32 c src a b (some ⟨neg, binary32.infMag⟩)).msb = neg := by
  rw [result32_of_not_subnormal c src a b (.inr (show binary32.hidden ≤ binary32.infMag by decide)),
    isInf32_iff, ← unpack32_neg, unpack32_pack32 (show binary32.infMag < _ by decide)]
  exact ⟨rfl, rfl⟩

theorem result32_zero (c : Cfg) (src : NanSource) (a b : BitVec 64) (neg : Bool) :
    isZero32 (result32 c src a b (some ⟨neg, 0⟩)) = true ∧
    (result32 c src a b (some ⟨neg, 0⟩)).msb = neg := by
  rw [result32_of_not_subnormal c src a b (.inl rfl), isZero32_iff, ← unpack32_neg,
    unpack32_pack32 (show 0 < _ by decide)]
  exact ⟨rfl, rfl⟩

@[simp] theorem isInf32_flipSign (x : F32) : isInf32 (flipSign x) = isInf32 x := by
  unfold isInf32; rw [flipSign_toNat_mod]

variable (c : Cfg) {a b : F32}

/-- A NaN operand gives a NaN. -/
theorem isNaN32_of_nan_operand (h : isNaN32 a = true ∨ isNaN32 b = true) :
    isNaN32 (fadd c a b) = true ∧ isNaN32 (fsub c a b) = true ∧
    isNaN32 (fmul c a b) = true ∧ isNaN32 (fdiv c a b) = true := by
  rw [isNaN32_iff, isNaN32_iff] at h
  have hflip : binary32.infMag < (unpack32 a).mag ∨ binary32.infMag < (unpack32 (flipSign b)).mag := by
    rwa [unpack32_flipSign]
  rw [fadd, fsub, fmul, fdiv, FloatFormat.addSM_nan h, FloatFormat.addSM_nan hflip,
    FloatFormat.mulSM_nan h, FloatFormat.divSM_nan h]
  simp

/-- Two infinities: they add when equal, subtract when opposite, and have no quotient. -/
theorem inf_with_inf (ha : isInf32 a = true) (hb : isInf32 b = true) :
    isNaN32 (fdiv c a b) = true ∧
    (a.msb ≠ b.msb → isNaN32 (fadd c a b) = true ∧ fsub c a b = a) ∧
    (a.msb = b.msb → isNaN32 (fsub c a b) = true ∧ fadd c a b = a) := by
  have ha' := (isInf32_iff a).mp ha
  have hb' := (isInf32_iff b).mp hb
  have hflip : (unpack32 (flipSign b)).mag = binary32.infMag := by rwa [unpack32_flipSign]
  refine ⟨?_, fun hne => ⟨?_, ?_⟩, fun heq => ⟨?_, ?_⟩⟩
  · rw [fdiv, FloatFormat.divSM_inf_inf ha' hb', isNaN32_result32_none]
  · rw [fadd, FloatFormat.addSM_inf_opposite ha' hb' hne, isNaN32_result32_none]
  · have hsame : a.msb = !b.msb := Bool.eq_not.mpr hne
    rw [fsub, FloatFormat.addSM_inf_left ha' hflip.le (fun _ => by rwa [unpack32_flipSign]),
      result32_of_isInf32 _ _ _ _ ha]
  · rw [fsub, FloatFormat.addSM_inf_opposite ha' hflip (by simp [heq]), isNaN32_result32_none]
  · rw [fadd, FloatFormat.addSM_inf_left ha' hb'.le (fun _ => heq), result32_of_isInf32 _ _ _ _ ha]

/-- An infinity with a finite value. -/
theorem inf_with_finite (ha : isInf32 a = true) (hb : isFinite32 b = true) :
    fadd c a b = a ∧ fadd c b a = a ∧ fsub c a b = a ∧ fsub c b a = flipSign a ∧
    isInf32 (fdiv c a b) = true ∧ (fdiv c a b).msb = (a.msb != b.msb) ∧
    isZero32 (fdiv c b a) = true ∧ (fdiv c b a).msb = (a.msb != b.msb) := by
  have ha' := (isInf32_iff a).mp ha
  have hb' := (isFinite32_iff b).mp hb
  have haflip : (unpack32 (flipSign a)).mag = binary32.infMag := by rwa [unpack32_flipSign]
  have hbflip : (unpack32 (flipSign b)).mag < binary32.infMag := by rwa [unpack32_flipSign]
  refine ⟨?_, ?_, ?_, ?_, ?_⟩
  · rw [fadd, FloatFormat.addSM_inf_left ha' hb'.le (fun h => absurd h hb'.ne),
      result32_of_isInf32 _ _ _ _ ha]
  · rw [fadd, FloatFormat.addSM_inf_right hb' ha', result32_of_isInf32 _ _ _ _ ha]
  · rw [fsub, FloatFormat.addSM_inf_left ha' hbflip.le (fun h => absurd h hbflip.ne),
      result32_of_isInf32 _ _ _ _ ha]
  · rw [fsub, FloatFormat.addSM_inf_right hb' haflip, result32_of_isInf32 _ _ _ _ (by simpa using ha)]
  · rw [fdiv, fdiv, FloatFormat.divSM_inf_left ha' hb', FloatFormat.divSM_inf_right hb' ha',
      bne_comm (a := (unpack32 b).neg)]
    exact ⟨(result32_infinite ..).1, (result32_infinite ..).2, result32_zero ..⟩

/-- An infinity times a zero. -/
theorem inf_times_zero (ha : isInf32 a = true) (hb : isZero32 b = true) :
    isNaN32 (fmul c a b) = true ∧ isNaN32 (fmul c b a) = true := by
  rw [isInf32_iff] at ha
  rw [isZero32_iff] at hb
  rw [fmul, fmul, FloatFormat.mulSM_inf_zero ha hb, FloatFormat.mulSM_zero_inf (by decide) hb ha]
  simp

/-- An infinity times a value that is no NaN and no zero. -/
theorem inf_times_nonzero (ha : isInf32 a = true) (hb : isNaN32 b = false) (hne : isZero32 b = false) :
    isInf32 (fmul c a b) = true ∧ (fmul c a b).msb = (a.msb != b.msb) ∧
    isInf32 (fmul c b a) = true ∧ (fmul c b a).msb = (a.msb != b.msb) := by
  rw [isInf32_iff] at ha
  rw [isNaN32_eq_false_iff] at hb
  rw [isZero32_eq_false_iff] at hne
  rw [fmul, fmul, FloatFormat.mulSM_inf_left ha hb hne, FloatFormat.mulSM_inf_right hb hne ha,
    bne_comm (a := (unpack32 b).neg)]
  exact ⟨(result32_infinite ..).1, (result32_infinite ..).2, result32_infinite ..⟩

theorem zero_over_zero (ha : isZero32 a = true) (hb : isZero32 b = true) :
    isNaN32 (fdiv c a b) = true := by
  rw [isZero32_iff] at ha hb
  rw [fdiv, FloatFormat.divSM_zero_zero (by decide) ha hb, isNaN32_result32_none]

theorem finite_over_zero (ha : isFinite32 a = true) (hne : isZero32 a = false) (hb : isZero32 b = true) :
    isInf32 (fdiv c a b) = true ∧ (fdiv c a b).msb = (a.msb != b.msb) := by
  rw [isFinite32_iff] at ha
  rw [isZero32_eq_false_iff] at hne
  rw [isZero32_iff] at hb
  rw [fdiv, FloatFormat.divSM_by_zero ha hne hb]
  exact result32_infinite ..

/-- Settles O46: one lemma per kind of operands. -/
theorem specialOperands : Obligations.SpecialOperands := fun c _ _ =>
  ⟨isNaN32_of_nan_operand c, inf_with_inf c, inf_with_finite c, inf_times_zero c, inf_times_nonzero c,
    zero_over_zero c, finite_over_zero c⟩

end Sys2Proof.Machine
end

section
/-! FTZ acts on results only (R6, R9, R13), and the properties of `tanh_f32` that R13 states for every NUM. -/

namespace Sys2Proof.Machine

/-! ## What FTZ makes of a value -/

/-- The configuration with FTZ false. -/
abbrev keepingSubnormals (c : Cfg) : Cfg := { c with ftz := false }

/-- A magnitude with the subnormal ones set to zero. -/
def flushedMag (m : Nat) : Nat := if m < binary32.hidden then 0 else m

theorem unpack32_flushed (x : F32) : unpack32 (flushed x) = ⟨x.msb, flushedMag (unpack32 x).mag⟩ := by
  unfold flushed flushedMag
  by_cases hsub : isSubnormal32 x = true
  · have hmag : (x &&& 0x80000000#32).toNat % 2147483648 = 0 := by
      rw [BitVec.toNat_and, show (2147483648 : Nat) = 2 ^ 31 by norm_num, Nat.and_mod_two_pow]
      simp
    have hmsb : (x &&& 0x80000000#32).msb = x.msb := by
      rw [BitVec.msb_and, show (2147483648#32).msb = true by decide, Bool.and_true]
    rw [if_pos hsub, if_pos ((isSubnormal32_iff x).mp hsub).2, unpack32, hmag, hmsb]
  · rw [if_neg hsub]
    rw [isSubnormal32_iff] at hsub
    have hmag : (if (unpack32 x).mag < binary32.hidden then 0 else (unpack32 x).mag) = (unpack32 x).mag := by
      split_ifs <;> omega
    rw [hmag]
    rfl

/-- FTZ keeps every value that is not subnormal. -/
theorem flushed_of_not_subnormal {x : F32} (h : (unpack32 x).mag = 0 ∨ binary32.hidden ≤ (unpack32 x).mag) :
    flushed x = x := by
  have hsub : ¬ isSubnormal32 x = true := by rw [isSubnormal32_iff]; omega
  rw [flushed, if_neg hsub]

theorem flushed_of_isNaN32 {x : F32} (h : isNaN32 x = true) : flushed x = x :=
  flushed_of_not_subnormal (.inr ((by decide : binary32.hidden ≤ binary32.infMag).trans ((isNaN32_iff x).mp h).le))

theorem flushMag_of_ftz {c : Cfg} (h : c.ftz = true) (m : Nat) : flushMag c m = flushedMag m := by
  rw [flushMag, h, Bool.and_true, flushedMag]
  simp only [decide_eq_true_eq]
  rfl

theorem flushed_pack32 {v : SignMag} (h : v.mag < 2147483648) :
    flushed (pack32 v) = pack32 ⟨v.neg, flushedMag v.mag⟩ := by
  have hle : flushedMag v.mag ≤ v.mag := by unfold flushedMag; split <;> omega
  apply unpack32_injective
  rw [unpack32_flushed, ← unpack32_neg, unpack32_pack32 h,
    unpack32_pack32 (show flushedMag v.mag < _ from hle.trans_lt h)]

theorem flushed_flipSign (x : F32) : flushed (flipSign x) = flipSign (flushed x) := by
  apply unpack32_injective
  rw [unpack32_flipSign, unpack32_flushed, ← unpack32_neg (flipSign x), ← unpack32_neg (flushed x),
    unpack32_flushed, unpack32_flipSign]

/-- FTZ on a value is `flushed`. -/
theorem flush32_of_ftz {c : Cfg} (h : c.ftz = true) (x : F32) : flush32 c x = flushed x := by
  unfold flush32
  split_ifs with hnan
  · exact (flushed_of_isNaN32 hnan).symm
  · conv_rhs => rw [← pack32_unpack32 x, flushed_pack32 (unpack32_mag_lt x), ← flushMag_of_ftz h]
    rfl

/-- `flush32` with FTZ true is `flushed` of `flush32` with FTZ false. -/
theorem flush32_eq_flushed {c : Cfg} (h : c.ftz = true) (x : F32) :
    flush32 c x = flushed (flush32 (keepingSubnormals c) x) := by
  rw [flush32_of_ftz h, flush32_of_ftz_false rfl]

/-- A rounded magnitude with FTZ true is `flushed` of what it is with FTZ false. -/
theorem pack32_flushMag {c : Cfg} (h : c.ftz = true) (neg : Bool) {m : Nat} (hm : m ≤ binary32.infMag) :
    pack32 ⟨neg, flushMag c m⟩ = flushed (pack32 ⟨neg, flushMag (keepingSubnormals c) m⟩) := by
  have hkeep : flushMag (keepingSubnormals c) m = m := by simp [flushMag]
  rw [hkeep, flushMag_of_ftz h, flushed_pack32 (mag32_lt (v := ⟨neg, m⟩) hm)]

/-! ## The four operations and the narrowing -/

theorem result32_eq_flushed {c : Cfg} (h : c.ftz = true) (src : NanSource) (a b : BitVec 64)
    {o : Option SignMag} (ho : ∀ v, o = some v → v.mag ≤ binary32.infMag) :
    result32 c src a b o = flushed (result32 (keepingSubnormals c) src a b o) := by
  rcases o with _ | v
  · exact (flushed_of_isNaN32 (isNaN32_nan32 src a b)).symm
  · exact pack32_flushMag h v.neg (ho v rfl)

/-- A sum that is no NaN has at most the magnitude of infinity. -/
theorem FloatFormat.addSM_mag_le (f : FloatFormat) (x y v : SignMag) (h : f.addSM x y = some v) :
    v.mag ≤ f.infMag := by
  unfold FloatFormat.addSM at h
  simp only at h
  split_ifs at h with hnan hx _ hy <;> obtain rfl := Option.some.inj h
  · exact hx.le
  · exact hy.le
  · exact f.roundUnits_le _ _
  · exact Nat.zero_le _
  · exact f.roundUnits_le _ _
  · exact f.roundUnits_le _ _

theorem FloatFormat.mulSM_mag_le (f : FloatFormat) (x y v : SignMag) (h : f.mulSM x y = some v) :
    v.mag ≤ f.infMag := by
  unfold FloatFormat.mulSM at h
  split_ifs at h <;> obtain rfl := Option.some.inj h
  · exact le_rfl
  · exact le_rfl
  · exact f.roundUnits_le _ _

theorem FloatFormat.divSM_mag_le (f : FloatFormat) (x y v : SignMag) (h : f.divSM x y = some v) :
    v.mag ≤ f.infMag := by
  unfold FloatFormat.divSM at h
  split_ifs at h <;> obtain rfl := Option.some.inj h
  · exact le_rfl
  · exact Nat.zero_le _
  · exact le_rfl
  · exact f.roundUnits_le _ _

theorem to32_eq_flushed {c : Cfg} (h : c.ftz = true) (v : F64) :
    to32 c v = flushed (to32 (keepingSubnormals c) v) := by
  unfold to32
  split_ifs with hnan hinf
  · exact (flushed_of_isNaN32 (isNaN32_nan32 _ _ _)).symm
  · exact (flushed_of_not_subnormal (.inr (by cases v.msb <;> decide))).symm
  · exact pack32_flushMag h v.msb (binary32.roundUnits_le _ _)

/-! ## `tanh_f32` -/

theorem withinOne_iff (x : F32) : withinOne x = true ↔ (unpack32 x).mag ≤ 0x3F800000 :=
  decide_eq_true_iff

/-- A subnormal lies in [-1, 1], so bounding and flushing commute. -/
theorem boundedByOne_flushed (x : F32) : boundedByOne (flushed x) = flushed (boundedByOne x) := by
  by_cases hsub : (unpack32 x).mag = 0 ∨ binary32.hidden ≤ (unpack32 x).mag
  · rw [flushed_of_not_subnormal hsub]
    unfold boundedByOne
    split_ifs
    · exact (flushed_of_not_subnormal hsub).symm
    · exact (flushed_of_not_subnormal (.inl rfl)).symm
  · have hx : withinOne x = true := by
      rw [withinOne_iff]
      have : binary32.hidden ≤ 0x3F800000 := by decide
      omega
    have hflushed : withinOne (flushed x) = true := by
      rw [withinOne_iff] at hx ⊢
      rw [unpack32_flushed, flushedMag]
      split_ifs
      · exact Nat.zero_le _
      · exact hx
    rw [boundedByOne, boundedByOne, if_pos hx, if_pos hflushed]

/-- The magnitude function of `tanh_f32` before FTZ, which NUM chooses (R13). -/
def tanhMagnitude (n : Numerics) (x : F32) : F32 :=
  match n with
  | .reference => refTanh32 (clearSign x)
  | .supplied => Config.tanhF32 (clearSign x)

/-- `tanh_f32` of a value that is no NaN and no zero: a bounded magnitude with the sign of the argument. -/
theorem tanhF32_eq (c : Cfg) {x : F32} (hnan : isNaN32 x = false) (hzero : isZero32 x = false) :
    tanhF32 c x =
      if x.msb then flipSign (boundedByOne (flush32 c (tanhMagnitude c.num x)))
      else boundedByOne (flush32 c (tanhMagnitude c.num x)) := by
  rw [tanhF32, hnan, hzero]
  rfl

theorem tanhF32_of_isNaN32 (c : Cfg) {x : F32} (h : isNaN32 x = true) : isNaN32 (tanhF32 c x) = true := by
  rw [tanhF32, if_pos h, isNaN32_nan32]

theorem tanhF32_of_isZero32 (c : Cfg) {x : F32} (h : isZero32 x = true) : tanhF32 c x = x := by
  have hnan : isNaN32 x = false := by
    rw [isNaN32_eq_false_iff, (isZero32_iff x).mp h]
    exact Nat.zero_le _
  rw [tanhF32, hnan, h]
  rfl

@[simp] theorem isZero32_flipSign (x : F32) : isZero32 (flipSign x) = isZero32 x := by
  unfold isZero32; rw [flipSign_toNat_mod]

@[simp] theorem msb_flipSign (x : F32) : (flipSign x).msb = !x.msb := by
  rw [← unpack32_neg, unpack32_flipSign]

@[simp] theorem clearSign_flipSign (x : F32) : clearSign (flipSign x) = clearSign x := by
  apply unpack32_injective
  rw [unpack32_clearSign, unpack32_clearSign, unpack32_flipSign]

/-- `tanh_f32` is odd. -/
theorem tanhF32_flipSign (c : Cfg) {x : F32} (hnan : isNaN32 x = false) :
    tanhF32 c (flipSign x) = flipSign (tanhF32 c x) := by
  cases hzero : isZero32 x
  · have hmagnitude : tanhMagnitude c.num (flipSign x) = tanhMagnitude c.num x := by
      unfold tanhMagnitude
      rw [clearSign_flipSign]
    rw [tanhF32_eq c hnan hzero, tanhF32_eq c (by simpa using hnan) (by simpa using hzero), hmagnitude,
      msb_flipSign]
    cases x.msb <;> simp
  · rw [tanhF32_of_isZero32 c hzero, tanhF32_of_isZero32 c (by simpa using hzero)]

theorem tanhF32_eq_flushed {c : Cfg} (h : c.ftz = true) (x : F32) :
    tanhF32 c x = flushed (tanhF32 (keepingSubnormals c) x) := by
  cases hnan : isNaN32 x
  · cases hzero : isZero32 x
    · rw [tanhF32_eq c hnan hzero, tanhF32_eq _ hnan hzero, flush32_eq_flushed h, boundedByOne_flushed]
      cases x.msb
      · rfl
      · exact (flushed_flipSign _).symm
    · rw [tanhF32_of_isZero32 c hzero, tanhF32_of_isZero32 _ hzero,
        flushed_of_not_subnormal (.inl ((isZero32_iff x).mp hzero))]
  · rw [flushed_of_isNaN32 (tanhF32_of_isNaN32 _ hnan), tanhF32, tanhF32, if_pos hnan, if_pos hnan]

/-- Settles O47: every result passes FTZ through `result32`, `flush32` or the narrowing. -/
theorem ftzFlushesSubnormals : Obligations.FtzFlushesSubnormals := fun _ a _ v h =>
  ⟨result32_eq_flushed h _ _ _ (binary32.addSM_mag_le _ _), result32_eq_flushed h _ _ _ (binary32.addSM_mag_le _ _),
    result32_eq_flushed h _ _ _ (binary32.mulSM_mag_le _ _), result32_eq_flushed h _ _ _ (binary32.divSM_mag_le _ _),
    flush32_eq_flushed h _, flush32_eq_flushed h _, to32_eq_flushed h v, tanhF32_eq_flushed h a,
    flush32_eq_flushed h _, flush32_eq_flushed h _, flush32_eq_flushed h _, flush32_eq_flushed h _⟩

/-- A value that is within one has magnitude at most 1. -/
theorem abs_value32_le_one {x : F32} (h : withinOne x = true) : |value32 x| ≤ 1 := by
  have hle : binary32.units (unpack32 x).mag ≤ 2 ^ 149 := by
    have hone : binary32.units 0x3F800000 = 2 ^ 149 := by decide
    rw [← hone]
    exact binary32_regular.units_strictMono.monotone ((withinOne_iff x).mp h)
  rw [value32_eq, FloatFormat.abs_signedValue]
  refine div_le_one_of_le₀ ?_ (by positivity)
  exact_mod_cast hle

theorem isFinite32_of_withinOne {x : F32} (h : withinOne x = true) : isFinite32 x = true :=
  (isFinite32_iff x).mpr (((withinOne_iff x).mp h).trans_lt (by decide))

/-- `tanh_f32` of a value that is no NaN lies in [-1, 1]. -/
theorem withinOne_tanhF32 (c : Cfg) {x : F32} (hnan : isNaN32 x = false) : withinOne (tanhF32 c x) = true := by
  cases hzero : isZero32 x
  · rw [tanhF32_eq c hnan hzero]
    split_ifs <;> simp
  · rw [tanhF32_of_isZero32 c hzero, withinOne_iff, (isZero32_iff x).mp hzero]
    exact Nat.zero_le _

/-- Settles O51: the bound and the oddness hold for whatever magnitude NUM supplies. -/
theorem tanhProperties : Obligations.TanhProperties := fun c _ =>
  ⟨tanhF32_of_isNaN32 c, tanhF32_of_isZero32 c, fun hnan =>
    ⟨isFinite32_of_withinOne (withinOne_tanhF32 c hnan), abs_value32_le_one (withinOne_tanhF32 c hnan),
      tanhF32_flipSign c hnan⟩⟩

end Sys2Proof.Machine
end

section
/-! Comparison and clamp (R11, R110). -/

namespace Sys2Proof.Machine

/-! ## Clamp -/

theorem fclamp_below {v lo hi : F32} (h : flt v lo = true) : fclamp v lo hi = lo := by
  rw [fclamp, if_pos h]

theorem fclamp_above {v lo hi : F32} (hlo : flt v lo = false) (hhi : flt hi v = true) :
    fclamp v lo hi = hi := by
  rw [fclamp, hlo, hhi]
  rfl

theorem fclamp_inside {v lo hi : F32} (hlo : flt v lo = false) (hhi : flt hi v = false) :
    fclamp v lo hi = v := by
  rw [fclamp, hlo, hhi]
  rfl

/-! ## Comparison with NaNs, infinities and finite values -/

theorem flt_of_isNaN32 {a b : F32} (h : isNaN32 a = true ∨ isNaN32 b = true) : flt a b = false := by
  rcases h with h | h <;> simp [flt, h]

theorem fle_of_isNaN32 {a b : F32} (h : isNaN32 a = true ∨ isNaN32 b = true) : fle a b = false := by
  rcases h with h | h <;> simp [fle, h]

section
variable {a b : F32} (ha : isFinite32 a = true) (hb : isFinite32 b = true)
include ha hb

theorem flt_iff_value32 : flt a b = true ↔ value32 a < value32 b := by
  rw [value32_lt_iff, flt_eq_true_iff (isNaN32_of_isFinite32 ha) (isNaN32_of_isFinite32 hb)]

theorem fle_iff_value32 : fle a b = true ↔ value32 a ≤ value32 b := by
  rw [value32_le_iff, fle_eq_true_iff (isNaN32_of_isFinite32 ha) (isNaN32_of_isFinite32 hb)]

end

/-- The infinities are beyond every finite value. -/
theorem flt_inf {v x : F32} (hv : isInf32 v = true) (hx : isFinite32 x = true) :
    flt v x = v.msb ∧ flt x v = !v.msb := by
  have hbound := (isFinite32_iff x).mp hx
  have hlt := flt_eq_true_iff (isNaN32_of_isInf32 hv) (isNaN32_of_isFinite32 hx)
  have hgt := flt_eq_true_iff (isNaN32_of_isFinite32 hx) (isNaN32_of_isInf32 hv)
  have hkeyx : -(binary32.infMag : Int) < (unpack32 x).key ∧ (unpack32 x).key < binary32.infMag := by
    unfold SignMag.key
    split_ifs <;> omega
  have hkeyv : (unpack32 v).key = if v.msb then -(binary32.infMag : Int) else binary32.infMag := by
    rw [SignMag.key, (isInf32_iff v).mp hv, unpack32_neg]
  cases hsign : v.msb <;> rw [hsign] at hkeyv <;> simp only [Bool.false_eq_true, if_false, if_true] at hkeyv
  · exact ⟨by rw [← Bool.not_eq_true, hlt]; omega, hgt.mpr (by omega)⟩
  · exact ⟨hlt.mpr (by omega), by rw [Bool.not_true, ← Bool.not_eq_true, hgt]; omega⟩

/-- Clamping a finite value brings its value into the bounds. -/
theorem fclamp_finite {v lo hi : F32} (hlo : isFinite32 lo = true) (hhi : isFinite32 hi = true)
    (horder : value32 lo ≤ value32 hi) (hv : isFinite32 v = true) :
    isFinite32 (fclamp v lo hi) = true ∧
    value32 (fclamp v lo hi) = max (value32 lo) (min (value32 v) (value32 hi)) := by
  have below := flt_iff_value32 hv hlo
  have above := flt_iff_value32 hhi hv
  cases hbelow : flt v lo
  · have hle : value32 lo ≤ value32 v := by rw [← not_lt, ← below, hbelow]; simp
    cases habove : flt hi v
    · have hge : value32 v ≤ value32 hi := by rw [← not_lt, ← above, habove]; simp
      rw [fclamp_inside hbelow habove, min_eq_left hge, max_eq_right hle]
      exact ⟨hv, rfl⟩
    · rw [fclamp_above hbelow habove, min_eq_right (above.mp habove).le, max_eq_right horder]
      exact ⟨hhi, rfl⟩
  · rw [fclamp_below hbelow, max_eq_left ((min_le_left _ _).trans (below.mp hbelow).le)]
    exact ⟨hlo, rfl⟩

/-- Clamping an infinity gives the bound on its side. -/
theorem fclamp_inf {v lo hi : F32} (hlo : isFinite32 lo = true) (hhi : isFinite32 hi = true)
    (hv : isInf32 v = true) : fclamp v lo hi = if v.msb then lo else hi := by
  rw [fclamp, (flt_inf hv hlo).1, (flt_inf hv hhi).2]
  cases v.msb <;> rfl

/-- Settles O49: order on values, false on NaNs, and the clamp by its three branches. -/
theorem comparisonAndClamp : Obligations.ComparisonAndClamp :=
  ⟨fun _ _ ha hb => ⟨flt_iff_value32 ha hb, fle_iff_value32 ha hb⟩,
    fun _ _ h => ⟨flt_of_isNaN32 h, fle_of_isNaN32 h⟩,
    fun _ _ _ h => fclamp_inside (flt_of_isNaN32 (.inl h)) (flt_of_isNaN32 (.inr h)),
    fun _ _ _ hlo hhi horder => ⟨fclamp_finite hlo hhi horder, fclamp_inf hlo hhi⟩⟩

end Sys2Proof.Machine
end

section
/-! The frame of the commands that name a CH and an ST (R14, R31, R92), and the accesses and configurations that are refused (R6, R61). -/

namespace Sys2Proof.Machine

/-! ## Commands that name a CH and an ST -/

/-- The commands that name a CH and an ST (R92, R93). -/
def instanceInstrs (ch : Channel) (st : Stage) : List Instr :=
  [.stageSample ch st, .compress ch st, .delaySample ch st, .bbdSample ch st, .expand ch st,
    .filterSample ch st, .mixSample ch st]

/-- Each of them runs some module function under the frame of `instanceCommand`. -/
theorem exec_instanceInstr {ch : Channel} {st : Stage} {i : Instr} (hi : i ∈ instanceInstrs ch st)
    (s : State) : ∃ used f, exec i s = .next (instanceCommand ch st used f s) := by
  simp only [instanceInstrs, List.mem_cons, List.not_mem_nil, or_false] at hi
  rcases hi with rfl | rfl | rfl | rfl | rfl | rfl | rfl <;> exact ⟨_, _, rfl⟩

/-- What holds of `inst(ch, st)` before the command, and of what the module function makes of it, holds after the command on every path. -/
theorem instanceCommand_own {P : Inst → Prop} {ch : Channel} {st : Stage} {used : List Param}
    {f : Inst → Inst × F32} {s t : State}
    (ht : (.next (instanceCommand ch st used f s) : Host.Outcome State Fault Refusal) = .next t)
    (hsame : P (s.inst ch st)) (hrun : P (f (s.inst ch st)).1) : P (t.inst ch st) := by
  obtain rfl := Host.Outcome.next.inj ht
  rcases inst_instanceCommand ch ch st st used f s with h | ⟨-, -, h⟩
  · rwa [h]
  · rwa [h]

theorem filterInst_aa (c : Cfg) (g : Engine) (x tonePct : F32) (I : Inst) :
    (filterInst c g x tonePct I).1.flt.aa = I.flt.aa :=
  (filter_coefficients c g x tonePct I.flt).1

/-- No unit of a stage writes the anti-alias coefficients. -/
theorem stage_aa (c : Cfg) (g : Engine) (ch : Channel) (st : Stage) (x : F32) (p : StageParams) (I : Inst) :
    (stage c g ch st x p I).1.flt.aa = I.flt.aa := by
  simp [stage, filterInst_aa]

/-- Settles O24: the frame of `instanceCommand`, and for each command what its module function writes. -/
theorem instanceUnitFrame : Obligations.InstanceUnitFrame := by
  intro ch st s t
  refine ⟨fun i hi h ch' st' hother => ?_, ?_, ?_, ?_, ?_, ?_, ?_, ?_⟩
  · obtain ⟨used, f, hexec⟩ := exec_instanceInstr hi s
    rw [hexec] at h
    obtain rfl := Host.Outcome.next.inj h
    rcases inst_instanceCommand ch ch' st st' used f s with same | ⟨hch, hst, -⟩
    · exact same
    · exact absurd ⟨hch, hst⟩ hother
  · exact fun h => instanceCommand_own
      (P := fun J => J = { s.inst ch st with cmp := { (s.inst ch st).cmp with envC := J.cmp.envC } }) h rfl rfl
  · exact fun h => instanceCommand_own
      (P := fun J => J = { s.inst ch st with cmp := { (s.inst ch st).cmp with envE := J.cmp.envE } }) h rfl rfl
  · exact fun h => instanceCommand_own (P := fun J => J = { s.inst ch st with dly := J.dly }) h rfl rfl
  · exact fun h => instanceCommand_own
      (P := fun J => J = { s.inst ch st with bbd := J.bbd, noise := J.noise }) h rfl rfl
  · refine fun h => instanceCommand_own
      (P := fun J => J = { s.inst ch st with flt := { J.flt with aa := (s.inst ch st).flt.aa } }) h rfl ?_
    rw [← filterInst_aa s.cfg s.eng s.a0 (s.paramRead st .tonePct) (s.inst ch st)]
    rfl
  · exact fun h => instanceCommand_own (P := fun J => J = { s.inst ch st with mix := J.mix }) h rfl rfl
  · exact fun h => instanceCommand_own (P := fun J => J.flt.aa = (s.inst ch st).flt.aa) h rfl (stage_aa ..)

/-! ## What is refused -/

theorem cfg_legal_iff (c : Cfg) : c.legal = true ↔ 1 ≤ c.bufWords ∧ c.bufWords ≤ 16384 := by
  rw [Cfg.legal, Bool.and_eq_true, decide_eq_true_iff, decide_eq_true_iff]

/-- The step of a legal configuration performs the oldest host event. -/
theorem step_of_legal {s : State} {e : HostEvent} {rest : List HostEvent} (hlegal : s.cfg.legal = true)
    (hhost : s.host = e :: rest) : step s = hostEvent e { s with host := rest } := by
  rw [step, stepHost, hlegal, hhost]
  rfl

theorem inWindow_eq_false {c : Cfg} {addr : Nat} (h : addr < c.base ∨ c.base + 0x30000 ≤ addr) :
    inWindow c addr = false := by
  have hsize : windowSize = 0x30000 := rfl
  rw [inWindow, ← Bool.not_eq_true, Bool.and_eq_true, decide_eq_true_iff, decide_eq_true_iff]
  omega

theorem hostAccess_outside {addr : Nat} {s : State} (h : inWindow s.cfg addr = false) (bytes : Nat)
    (v : Option Word) : hostAccess addr bytes v s = .refused .outsideWindow := by
  simp [hostAccess, h]

/-- Settles O14: the configuration is tested first, then the address. -/
theorem outsideTheWindowIsRefused : Obligations.OutsideTheWindowIsRefused := by
  refine ⟨fun s addr bytes v rest hlegal haddr hhost => ?_, fun s hwords => ?_, cfg_legal_iff⟩
  · have houtside : inWindow ({ s with host := rest } : State).cfg addr = false := inWindow_eq_false haddr
    rcases hhost with hhost | hhost
    · rw [step_of_legal hlegal hhost]
      exact hostAccess_outside houtside bytes none
    · rw [step_of_legal hlegal hhost]
      exact hostAccess_outside houtside bytes (some v)
  · have hillegal : s.cfg.legal = false := by
      rw [← Bool.not_eq_true, cfg_legal_iff]
      omega
    rw [step, stepHost, hillegal]
    rfl

end Sys2Proof.Machine
end

section
/-! Conversions between integers, binary32 and binary64, and rounding to integers (R9, R11). -/

namespace Sys2Proof.Machine

/-! ## Values a format holds exactly -/

/-- A value with few enough significant digits and below infinity is held exactly. -/
theorem FloatFormat.Regular.roundUnits_exact {f : FloatFormat} (hf : f.Regular) {t e : Nat}
    (ht : t < 2 * f.hidden) (hfin : t * 2 ^ e < f.units f.infMag) :
    f.roundUnits (t * 2 ^ e) 1 < f.infMag ∧ f.units (f.roundUnits (t * 2 ^ e) 1) = t * 2 ^ e := by
  obtain ⟨k, hk⟩ := hf.hidden_eq
  have hworth := f.units_rawRound_exact (e := e) hk ht
  have hlt : f.rawRound (t * 2 ^ e) 1 < f.infMag := by
    rwa [← hf.units_strictMono.lt_iff_lt, hworth]
  rw [f.roundUnits_eq, min_eq_left hlt.le]
  exact ⟨hlt, hworth⟩

theorem units32_infMag : binary32.units binary32.infMag = 2 ^ 277 := by decide +kernel
theorem units64_infMag : binary64.units binary64.infMag = 2 ^ 2098 := by decide +kernel

theorem units32_lt {m : Nat} (h : m < binary32.infMag) : binary32.units m < 2 ^ 277 := by
  rw [← units32_infMag]
  exact binary32_regular.units_strictMono h

theorem isFinite32_pack32 {v : SignMag} (h : v.mag < binary32.infMag) : isFinite32 (pack32 v) = true := by
  rwa [isFinite32_iff, unpack32_pack32 (mag32_lt h.le)]

theorem value32_pack32 {v : SignMag} (h : v.mag ≤ binary32.infMag) :
    value32 (pack32 v) = binary32.signedValue v := by
  rw [value32_eq, unpack32_pack32 (mag32_lt h)]

/-! ## Integers as binary32 -/

/-- An integer that binary32 holds: its pattern is finite and has its value. -/
theorem pack32_integer (neg : Bool) {N t e : Nat} (ht : t < 2 ^ 24) (hN : N * 2 ^ 149 = t * 2 ^ e)
    (hfin : N < 2 ^ 128) :
    isFinite32 (pack32 ⟨neg, binary32.roundUnits (N * 2 ^ 149) 1⟩) = true ∧
    value32 (pack32 ⟨neg, binary32.roundUnits (N * 2 ^ 149) 1⟩) = signFactor neg * N := by
  have hbelow : t * 2 ^ e < binary32.units binary32.infMag := by
    rw [units32_infMag, ← hN, show 2 ^ 277 = 2 ^ 128 * 2 ^ 149 by rw [← pow_add]]
    exact Nat.mul_lt_mul_of_pos_right hfin (by positivity)
  obtain ⟨hlt, hworth⟩ := binary32_regular.roundUnits_exact ht hbelow
  rw [← hN] at hlt hworth
  generalize binary32.roundUnits (N * 2 ^ 149) 1 = m at hlt hworth
  refine ⟨isFinite32_pack32 hlt, ?_⟩
  rw [value32_pack32 (v := ⟨neg, m⟩) hlt.le, FloatFormat.signedValue, hworth, Nat.cast_mul, Nat.cast_pow,
    Nat.cast_ofNat, show binary32.unit = 149 from rfl, mul_div_cancel_right₀ _ (by positivity)]

/-- `pack32_integer` for every integer below `2 ^ 24`. -/
theorem pack32_small_integer (neg : Bool) {N : Nat} (hN : N < 2 ^ 24) :
    isFinite32 (pack32 ⟨neg, binary32.roundUnits (N * 2 ^ 149) 1⟩) = true ∧
    value32 (pack32 ⟨neg, binary32.roundUnits (N * 2 ^ 149) 1⟩) = signFactor neg * N :=
  pack32_integer neg hN rfl (hN.trans (by decide))

/-- `int_to_f32` is exact on the integers R9 states it for. -/
theorem intToF32_exact {n : Int} (h : |n| < 2 ^ 24) :
    isFinite32 (intToF32 n) = true ∧ value32 (intToF32 n) = n := by
  have habs : n.natAbs < 2 ^ 24 := by rw [Int.abs_eq_natAbs] at h; omega
  obtain ⟨finite, value⟩ := pack32_small_integer (decide (n < 0)) habs
  rw [intToF32_of_lt habs]
  refine ⟨finite, value.trans ?_⟩
  rw [Nat.cast_natAbs]
  rcases lt_or_ge n 0 with hn | hn
  · simp [hn, abs_of_neg hn]
  · simp [hn.not_gt, abs_of_nonneg hn]

/-! ## Widening and narrowing -/

/-- Every finite binary32 magnitude is a binary64 one. -/
theorem widen_units {m : Nat} (h : m < binary32.infMag) :
    binary64.roundUnits (binary32.units m * 2 ^ 925) 1 < binary64.infMag ∧
    binary64.units (binary64.roundUnits (binary32.units m * 2 ^ 925) 1) = binary32.units m * 2 ^ 925 := by
  obtain ⟨t, e, ht, hm⟩ := binary32.units_eq_mul_pow (by decide) m
  have hlt : binary32.units m * 2 ^ 925 < binary64.units binary64.infMag := by
    rw [units64_infMag]
    calc binary32.units m * 2 ^ 925 < 2 ^ 277 * 2 ^ 925 :=
          Nat.mul_lt_mul_of_pos_right (units32_lt h) (by positivity)
      _ = 2 ^ (277 + 925) := (pow_add 2 277 925).symm
      _ ≤ 2 ^ 2098 := pow_le_pow_right₀ one_le_two (show 277 + 925 ≤ 2098 by decide)
  rw [hm, mul_assoc, ← pow_add] at hlt ⊢
  exact binary64_regular.roundUnits_exact (ht.trans (by decide)) hlt

theorem to64_exact {x : F32} (h : isFinite32 x = true) :
    isFinite64 (to64 x) = true ∧ value64 (to64 x) = value32 x := by
  obtain ⟨hlt, hworth⟩ := widen_units ((isFinite32_iff x).mp h)
  have hto : to64 x =
      pack64 ⟨x.msb, binary64.roundUnits (binary32.units (unpack32 x).mag * 2 ^ 925) 1⟩ := by
    rw [to64, isNaN32_of_isFinite32 h, h]
    rfl
  generalize binary64.roundUnits (binary32.units (unpack32 x).mag * 2 ^ 925) 1 = m at hlt hworth hto
  rw [hto, isFinite64_iff, value64_eq, unpack64_pack64 (v := ⟨x.msb, m⟩) (hlt.trans (by decide))]
  refine ⟨hlt, ?_⟩
  rw [value32_eq, FloatFormat.signedValue, FloatFormat.signedValue, hworth]
  have hscale : (2 : ℚ) ^ binary64.unit = 2 ^ binary32.unit * 2 ^ 925 := pow_add 2 149 925
  rw [Nat.cast_mul, Nat.cast_pow, Nat.cast_ofNat, hscale, mul_div_mul_right _ _ (by positivity)]
  rfl

theorem to32_rounds {c : Cfg} (hc : c.ftz = false) {v : F64} (h : isFinite64 v = true) :
    Rounds32 (value64 v) (to32 c v) := by
  have hto : to32 c v =
      pack32 ⟨v.msb, binary32.roundUnits (binary64.units (unpack64 v).mag) (2 ^ 925)⟩ := by
    simp only [to32, isNaN64_of_isFinite64 h, h, flushMag, hc, Bool.and_false, Bool.false_eq_true,
      Bool.not_true, if_false, unpack64_mag]
  have hscale : (2 : ℚ) ^ binary64.unit = ((2 ^ 925 : ℕ) : ℚ) * 2 ^ binary32.unit := by
    rw [Nat.cast_pow, Nat.cast_ofNat]
    exact pow_add 2 925 149
  rw [hto, value64_eq, FloatFormat.signedValue, hscale, ← div_div]
  exact rounds32_pack32 (binary32_regular.roundsTo_roundUnits _ _ (by positivity))

/-! ## Floor and round-away -/

/-- A finite magnitude that is not integral has fewer than 23 whole binary digits; one that is, few significant ones. -/
theorem units32_cases (m : Nat) :
    (∃ t e, t < 2 ^ 24 ∧ binary32.units m = t * 2 ^ e * 2 ^ 149) ∨
    binary32.units m < 2 ^ 23 * 2 ^ 149 := by
  obtain ⟨t, e, ht, hm⟩ := binary32.units_eq_mul_pow (by decide) m
  rcases Nat.lt_or_ge e 149 with small | large
  · right
    calc binary32.units m = t * 2 ^ e := hm
      _ < 2 ^ 24 * 2 ^ e := Nat.mul_lt_mul_of_pos_right ht (by positivity)
      _ ≤ 2 ^ 24 * 2 ^ 148 := Nat.mul_le_mul_left _ (Nat.pow_le_pow_right (by decide) (by omega))
      _ = 2 ^ 23 * 2 ^ 149 := by rw [← pow_add, ← pow_add]
  · left
    exact ⟨t, e - 149, ht, by rw [hm, mul_assoc, ← pow_add, Nat.sub_add_cancel large]⟩

theorem wholePart32_eq (x : F32) : wholePart32 x = binary32.units (unpack32 x).mag / 2 ^ 149 := rfl

theorem isIntegral32_iff (x : F32) :
    isIntegral32 x = true ↔ binary32.units (unpack32 x).mag % 2 ^ 149 = 0 :=
  decide_eq_true_iff

/-- The value as a quotient of naturals under its sign. -/
theorem value32_eq_quotient (x : F32) : value32 x =
    signFactor x.msb * ((binary32.units (unpack32 x).mag : ℚ) / (2 ^ 149 : ℕ)) := by
  rw [value32_eq, FloatFormat.signedValue, Nat.cast_pow, Nat.cast_ofNat]
  rfl

/-- The whole part is the floor of the magnitude. -/
theorem floor_magnitude (x : F32) :
    ⌊(binary32.units (unpack32 x).mag : ℚ) / (2 ^ 149 : ℕ)⌋ = (wholePart32 x : ℤ) := by
  rw [Rat.floor_natCast_div_natCast]
  rfl

/-- An integral pattern is read as its integer. -/
theorem intOfF32_of_value {x : F32} (h : isFinite32 x = true) {z : ℤ} (hz : value32 x = z) :
    intOfF32 x = z := by
  have hfloor := floor_magnitude x
  rw [value32_eq_quotient] at hz
  rw [intOfF32, h]
  cases hsign : x.msb
  · rw [hsign, signFactor_false, one_mul] at hz
    rw [hz, Int.floor_intCast] at hfloor
    simp [hfloor]
  · rw [hsign, signFactor_true, neg_one_mul, neg_eq_iff_eq_neg, ← Int.cast_neg] at hz
    rw [hz, Int.floor_intCast] at hfloor
    simp [← hfloor]

/-- The floor of a negative quotient that is no integer. -/
theorem floor_neg_quotient {U D : Nat} (hD : 0 < D) (h : U % D ≠ 0) :
    ⌊-((U : ℚ) / D)⌋ = -((U / D : ℕ) + 1 : ℤ) := by
  have hdm : (D : ℚ) * (U / D : ℕ) + (U % D : ℕ) = U := by exact_mod_cast Nat.div_add_mod U D
  have hpos : (0 : ℚ) < (U % D : ℕ) := by exact_mod_cast Nat.pos_of_ne_zero h
  have hlt : ((U % D : ℕ) : ℚ) < D := by exact_mod_cast Nat.mod_lt U hD
  have hD' : (0 : ℚ) < D := by exact_mod_cast hD
  have hle : (U : ℚ) / D ≤ (U / D : ℕ) + 1 := (div_le_iff₀ hD').mpr (by linarith)
  have hgt : ((U / D : ℕ) : ℚ) < (U : ℚ) / D := (lt_div_iff₀ hD').mpr (by linarith)
  rw [Int.floor_eq_iff, Int.cast_neg, Int.cast_add, Int.cast_natCast, Int.cast_one]
  exact ⟨neg_le_neg hle, by linarith⟩

/-- `floor_f32` gives the largest integer not above a finite value. -/
theorem ffloor_value {x : F32} (h : isFinite32 x = true) :
    isFinite32 (ffloor x) = true ∧ value32 (ffloor x) = ⌊value32 x⌋ := by
  have hbound := units32_cases (unpack32 x).mag
  have hvalue := value32_eq_quotient x
  cases hint : isIntegral32 x
  · have hmod : binary32.units (unpack32 x).mag % 2 ^ 149 ≠ 0 := by
      rw [ne_eq, ← isIntegral32_iff, hint]; simp
    have hsmall : wholePart32 x < 2 ^ 23 := by
      rcases hbound with ⟨t, e, -, heq⟩ | hlt
      · exact absurd (heq ▸ Nat.mul_mod_left _ _) hmod
      · exact (Nat.div_lt_iff_lt_mul (by positivity)).mpr hlt
    cases hsign : x.msb
    · have hfloor : ffloor x = pack32 ⟨false, binary32.roundUnits (wholePart32 x * 2 ^ 149) 1⟩ := by
        simp [ffloor, h, hint, hsign]
      obtain ⟨finite, value⟩ := pack32_small_integer false (hsmall.trans (by decide))
      rw [hfloor, value, hvalue, hsign, signFactor_false, one_mul, one_mul, floor_magnitude]
      exact ⟨finite, by simp⟩
    · have hfloor : ffloor x = pack32 ⟨true, binary32.roundUnits ((wholePart32 x + 1) * 2 ^ 149) 1⟩ := by
        simp [ffloor, h, hint, hsign]
      obtain ⟨finite, value⟩ := pack32_small_integer true (N := wholePart32 x + 1) (by omega)
      rw [hfloor, value, hvalue, hsign, signFactor_true, neg_one_mul, neg_one_mul,
        floor_neg_quotient (by positivity) hmod, ← wholePart32_eq]
      exact ⟨finite, by push_cast; rfl⟩
  · have hfloor : ffloor x = x := by simp [ffloor, hint]
    have hquotient : (binary32.units (unpack32 x).mag : ℚ) / (2 ^ 149 : ℕ) = (wholePart32 x : ℤ) := by
      rw [Int.cast_natCast, wholePart32_eq,
        Nat.cast_div (Nat.dvd_of_mod_eq_zero ((isIntegral32_iff x).mp hint)) (by positivity)]
    rw [hfloor, hvalue, hquotient]
    refine ⟨h, ?_⟩
    cases x.msb
    · rw [signFactor_false, one_mul, Int.floor_intCast]
    · rw [signFactor_true, neg_one_mul, ← Int.cast_neg, Int.floor_intCast]

/-- The magnitude of a finite value rounded half up to an integer. -/
def nearestWhole32 (x : F32) : Nat := (binary32.units (unpack32 x).mag + 2 ^ 148) / 2 ^ 149

theorem floor_magnitude_add_half (x : F32) :
    ⌊(binary32.units (unpack32 x).mag : ℚ) / (2 ^ 149 : ℕ) + 1 / 2⌋ = (nearestWhole32 x : ℤ) := by
  have hsum : (binary32.units (unpack32 x).mag : ℚ) / (2 ^ 149 : ℕ) + 1 / 2 =
      ((binary32.units (unpack32 x).mag + 2 ^ 148 : ℕ) : ℚ) / (2 ^ 149 : ℕ) := by
    push_cast
    rw [add_div]
    norm_num
  rw [hsum, Rat.floor_natCast_div_natCast]
  rfl

/-- `round_away_f32` keeps the sign and rounds the magnitude half up. -/
theorem froundAway_signed {x : F32} (h : isFinite32 x = true) :
    isFinite32 (froundAway x) = true ∧
    value32 (froundAway x) = signFactor x.msb * nearestWhole32 x := by
  have hround : froundAway x = pack32 ⟨x.msb, binary32.roundUnits (nearestWhole32 x * 2 ^ 149) 1⟩ := by
    rw [froundAway, h]
    rfl
  rw [hround]
  rcases units32_cases (unpack32 x).mag with ⟨t, e, ht, heq⟩ | hlt
  · have hwhole : nearestWhole32 x = t * 2 ^ e := by
      rw [nearestWhole32, heq, mul_comm (t * 2 ^ e), Nat.mul_add_div (by positivity)]
      exact Nat.add_zero _
    refine pack32_integer x.msb ht (e := e + 149) (by rw [hwhole, pow_add, mul_assoc]) ?_
    have := units32_lt ((isFinite32_iff x).mp h)
    rw [heq, ← hwhole, show 2 ^ 277 = 2 ^ 128 * 2 ^ 149 by rw [← pow_add]] at this
    exact Nat.lt_of_mul_lt_mul_right this
  · apply pack32_small_integer
    rw [nearestWhole32, Nat.div_lt_iff_lt_mul (by positivity)]
    omega

/-- `round_away_f32` gives the nearest integer, halves away from zero. -/
theorem froundAway_value {x : F32} (h : isFinite32 x = true) :
    value32 (froundAway x) =
      if value32 x < 0 then -(⌊-value32 x + 1 / 2⌋ : ℚ) else (⌊value32 x + 1 / 2⌋ : ℚ) := by
  have hhalf := floor_magnitude_add_half x
  have hquotient : (0 : ℚ) ≤ (binary32.units (unpack32 x).mag : ℚ) / (2 ^ 149 : ℕ) := by positivity
  rw [(froundAway_signed h).2, value32_eq_quotient]
  cases x.msb
  · rw [signFactor_false, one_mul, one_mul, if_neg hquotient.not_gt, hhalf, Int.cast_natCast]
  · rw [signFactor_true, neg_one_mul, neg_one_mul, neg_neg, hhalf, Int.cast_natCast]
    split_ifs with hneg
    · rfl
    · have hzero : (binary32.units (unpack32 x).mag : ℚ) / (2 ^ 149 : ℕ) = 0 := by linarith
      rw [hzero, zero_add] at hhalf
      rw [hzero, neg_zero, zero_add, hhalf, Int.cast_natCast]
      have : nearestWhole32 x = 0 := by
        have : ⌊(1 / 2 : ℚ)⌋ = 0 := by norm_num
        omega
      simp [this]

/-- Settles O48: exact conversions, one rounding in the narrowing, and the two integral roundings. -/
theorem conversionsAndIntegralRounding : Obligations.ConversionsAndIntegralRounding :=
  ⟨fun _ => intToF32_exact, fun _ => to64_exact, fun _ _ hc h => to32_rounds hc h,
    fun _ h => ⟨(ffloor_value h).1, (ffloor_value h).2,
      intOfF32_of_value (ffloor_value h).1 (ffloor_value h).2⟩,
    fun _ h => ⟨(froundAway_signed h).1, froundAway_value h⟩⟩

end Sys2Proof.Machine
end

section
/-! The constants of the signal path (R10, R119). -/

namespace Sys2Proof.Machine

/-- The binary32 value nearest to a rational. -/
def nearest32 (q : ℚ) : F32 :=
  pack32 ⟨decide (q < 0), binary32.roundUnits (q.num.natAbs * 2 ^ 149) q.den⟩

/-- The binary64 value nearest to a rational. -/
def nearest64 (q : ℚ) : F64 :=
  pack64 ⟨decide (q < 0), binary64.roundUnits (q.num.natAbs * 2 ^ 1074) q.den⟩

/-- A rational as its sign and the quotient of its magnitude. -/
theorem eq_signFactor_mul_quotient (q : ℚ) :
    q = signFactor (decide (q < 0)) * ((q.num.natAbs : ℚ) / q.den) := by
  rw [Nat.cast_natAbs, Int.cast_abs]
  rcases lt_or_ge q 0 with hq | hq
  · have hnum : ((q.num : ℤ) : ℚ) < 0 := by exact_mod_cast Rat.num_neg.mpr hq
    rw [decide_eq_true hq, abs_of_neg hnum, signFactor_true, neg_div, Rat.num_div_den]
    ring
  · have hnum : (0 : ℚ) ≤ (q.num : ℤ) := by exact_mod_cast Rat.num_nonneg.mpr hq
    rw [decide_eq_false hq.not_gt, abs_of_nonneg hnum, signFactor_false, Rat.num_div_den, one_mul]

/-- A format rounds a rational by rounding its magnitude in units of the smallest subnormal. -/
theorem FloatFormat.Regular.roundsTo_rat {f : FloatFormat} (hf : f.Regular) (q : ℚ) :
    f.RoundsTo q ⟨decide (q < 0), f.roundUnits (q.num.natAbs * 2 ^ f.unit) q.den⟩ := by
  convert hf.roundsTo_roundUnits (decide (q < 0)) (q.num.natAbs * 2 ^ f.unit) q.den_pos using 1
  rw [Nat.cast_mul, Nat.cast_pow, Nat.cast_ofNat, mul_div_right_comm,
    mul_div_cancel_right₀ _ (by positivity)]
  exact eq_signFactor_mul_quotient q

theorem rounds32_nearest32 (q : ℚ) : Rounds32 q (nearest32 q) :=
  rounds32_pack32 (binary32_regular.roundsTo_rat q)

theorem rounds64_nearest64 (q : ℚ) : Rounds64 q (nearest64 q) := by
  have := rounds64_pack64 (binary64_regular.roundsTo_rat q)
  rwa [show binary64.unit = 1074 from rfl] at this

/-- A table of constants is right when each is the computed nearest value. -/
theorem rounds32_of_table {l : List (F32 × ℚ)} (h : ∀ p ∈ l, nearest32 p.2 = p.1) :
    ∀ p ∈ l, Rounds32 p.2 p.1 :=
  fun p hp => h p hp ▸ rounds32_nearest32 p.2

theorem rounds64_of_table {l : List (F64 × ℚ)} (h : ∀ p ∈ l, nearest64 p.2 = p.1) :
    ∀ p ∈ l, Rounds64 p.2 p.1 :=
  fun p hp => h p hp ▸ rounds64_nearest64 p.2

theorem value64_piD : value64 piD = 884279719003555 / 281474976710656 := by decide +kernel

/-- `PI_D` is within half a unit in its last place of π. -/
theorem piD_near_pi : |((value64 piD : ℚ) : ℝ) - Real.pi| < 1 / 2 ^ 52 := by
  have hlow := Real.pi_gt_d20
  have hhigh := Real.pi_lt_d20
  rw [value64_piD, abs_lt]
  norm_num at hlow hhigh ⊢
  constructor <;> linarith

/-- Half of `PI_D`, which binary64 holds exactly. -/
theorem ddiv_piD_dbl2 : ddiv piD dbl2 = 0x3FF921FB54442D18#64 := by decide +kernel

/-- `HALF_PI_F` is the narrowing of half of `PI_D`; it is no subnormal, so FTZ does not matter. -/
theorem to32_half_piD (c : Cfg) : to32 c (ddiv piD dbl2) = halfPiF := by
  have hround : binary32.roundUnits
      (binary64.units ((0x3FF921FB54442D18#64 : F64).toNat % 9223372036854775808)) (2 ^ 925) =
      0x3FC90FDB := by decide +kernel
  have hnan : isNaN64 0x3FF921FB54442D18#64 = false := by decide
  have hfinite : isFinite64 0x3FF921FB54442D18#64 = true := by decide
  rw [ddiv_piD_dbl2, to32, hnan, hfinite, hround, flushMag_of_not_subnormal c (.inr (by decide))]
  decide

/-- Settles O50: each table entry is the computed nearest value, which is the rounding of its decimal. -/
theorem literalsAreNearest : Obligations.LiteralsAreNearest :=
  ⟨rounds32_of_table (by decide +kernel), rounds64_of_table (by decide +kernel), piD_near_pi,
    to32_half_piD⟩

end Sys2Proof.Machine
end

section
/-! The commands: the fault conditions in the terms `exec` tests them in, and everything a command can do to the state (R116, R240, R250, R256, R270, R275). -/

namespace Sys2Proof.Machine

/-! ## Fault conditions -/

theorem nanIn_eq_holdsNaN (s : State) (st : Stage) (used : List Param) :
    s.nanIn st used = s.holdsNaN (used.map (Prod.mk st)) := by
  rw [State.nanIn, State.holdsNaN, List.any_map]
  rfl

/-- The parameters a block uses hold a NaN exactly when the block is not bypassed and its own test finds one. -/
theorem holdsNaN_blockParams (s : State) :
    s.holdsNaN s.blockParams = (!s.bypass && s.blockNaN) := by
  unfold State.blockParams State.blockNaN State.bypass State.cascaded
  simp only [nanIn_eq_holdsNaN]
  by_cases hnone : s.ctrl.getLsbD 0 = true ∨ s.blockLen = 0#32
  · rw [if_pos hnone]
    rcases hnone with h | h <;> simp [State.holdsNaN, h]
  · rw [if_neg hnone]
    obtain ⟨hbyp, hlen⟩ := not_or.mp hnone
    rw [Bool.not_eq_true] at hbyp
    rw [hbyp, bne_iff_ne.mpr hlen]
    cases s.ctrl.getLsbD 1 <;> simp [State.holdsNaN, allParams, Bool.or_assoc]

theorem faultOf_prepare (s : State) : faultOf .prepare s =
    if !rateLegal s.cfg s.sampleRateOperand then some .badSampleRate
    else if !blockSizeLegal s.cfg s.a2 then some .badBlockSize
    else none := by
  have hsize : (s.a2.toNat = 0 ∨ s.cfg.bufWords < s.a2.toNat) ↔
      (!blockSizeLegal s.cfg s.a2) = true := by
    have hzero : s.a2 = 0#32 ↔ s.a2.toNat = 0 := by rw [← BitVec.toNat_inj]; simp
    simp only [blockSizeLegal, bne, Bool.not_and, Bool.not_not, Bool.or_eq_true, beq_iff_eq,
      Bool.not_eq_true', decide_eq_false_iff_not, not_le, hzero]
  simp only [faultOf, hsize]
  rfl

theorem faultOf_processBlock (s : State) : faultOf .processBlock s =
    if s.blockLimit < s.blockLen.toNat then some .badBlockSize
    else if s.eng.prep && (!s.bypass && s.blockNaN) then some .nanParameter
    else none := by
  rw [faultOf, holdsNaN_blockParams]
  rfl

/-! ## What a command runs -/

/-- The module function a command that names a CH and an ST runs on `inst(ch, st)`, at the parameters and operands of `s`; the other commands run none. -/
def moduleOf (s : State) : Instr → Inst → Inst × F32
  | .stageSample ch st => stage s.cfg s.eng ch st s.a0 (s.params st)
  | .compress _ _ => compressF s.cfg s.eng s.a0
  | .delaySample _ st =>
    delayInst s.cfg s.eng s.a0 (s.paramRead st .delayMs) (s.paramRead st .feedbackPct)
  | .bbdSample ch st => bbdInst s.cfg ch st s.a0 (s.paramRead st .delayMs)
  | .expand _ _ => expandF s.cfg s.eng s.a0
  | .filterSample _ st => filterInst s.cfg s.eng s.a0 (s.paramRead st .tonePct)
  | .mixSample _ st => mixInst s.cfg s.eng s.a0 s.a1 (s.paramRead st .mixPct)
  | .prepare | .reset | .processBlock | .softclip => fun I => (I, s.a0)

section
variable {ch : Channel} {st : Stage} {i : Instr}

/-- A property of every command that names a CH and an ST, one command at a time. -/
theorem forall_instanceInstrs {P : Instr → Prop} (hi : i ∈ instanceInstrs ch st)
    (stageSample : P (.stageSample ch st)) (compress : P (.compress ch st))
    (delaySample : P (.delaySample ch st)) (bbdSample : P (.bbdSample ch st))
    (expand : P (.expand ch st)) (filterSample : P (.filterSample ch st))
    (mixSample : P (.mixSample ch st)) : P i := by
  simp only [instanceInstrs, List.mem_cons, List.not_mem_nil, or_false] at hi
  rcases hi with rfl | rfl | rfl | rfl | rfl | rfl | rfl <;> assumption

/-- Each of them is the frame of `instanceCommand` around its module function and the parameters it uses. -/
theorem exec_eq_instanceCommand (hi : i ∈ instanceInstrs ch st) (s : State) :
    exec i s = .next (instanceCommand ch st ((usedParams i).map Prod.snd) (moduleOf s i) s) := by
  apply forall_instanceInstrs hi <;> rfl

theorem faultOf_instanceInstr (hi : i ∈ instanceInstrs ch st) (s : State) : faultOf i s =
    if s.eng.prep && s.nanIn st ((usedParams i).map Prod.snd) then some .nanParameter else none := by
  apply forall_instanceInstrs hi <;> rw [nanIn_eq_holdsNaN] <;> rfl

end

/-! ## Everything a command can do -/

/-- The state PREPARE leaves when it meets no fault condition (R250). -/
def State.prepared (s : State) : State :=
  { s.mapInst (prepareInst s.cfg (lowpass s.cfg s.sampleRateOperand dbl5000)) with
    eng := preparedEngine s.cfg s.sampleRateOperand s.a2
    err := 0#4 }

/-- The state RESET leaves (R256). -/
def State.cleared (s : State) : State := { s.mapInst (clearInst s.cfg) with err := 0#4 }

/-- The samples of both channels of a block, the left channel first (R240). -/
def State.blockProcessed (s : State) : State :=
  channelLoop s.snapshot .right s.snapshot.n 0 (channelLoop s.snapshot .left s.snapshot.n 0 s)

/-- The state a command that names a CH and an ST leaves when it runs its module function (R23). -/
def State.sampled (s : State) (ch : Channel) (st : Stage) (i : Instr) : State :=
  (s.setInst ch st (moduleOf s i (s.inst ch st)).1).setResult (moduleOf s i (s.inst ch st)).2

/-- What each command can make of the state `s`, with what it has tested. -/
inductive CommandEffect (s : State) : Instr → State → Prop
  | fault {i : Instr} {code : FaultCode} (hfault : faultOf i s = some code) :
      CommandEffect s i (raiseFault code s)
  | prepare (hnone : faultOf .prepare s = none)
      (hrate : rateLegal s.cfg s.sampleRateOperand = true)
      (hsize : blockSizeLegal s.cfg s.a2 = true) : CommandEffect s .prepare s.prepared
  | reset : CommandEffect s .reset s.cleared
  | blockPassed (hprep : s.eng.prep = false) : CommandEffect s .processBlock s
  | blockRun (hprep : s.eng.prep = true) (hlen : s.blockLen.toNat ≤ s.blockLimit)
      (hnan : s.bypass = true ∨ s.blockNaN = false) :
      CommandEffect s .processBlock s.blockProcessed
  | softclip : CommandEffect s .softclip (s.setResult (Machine.softclip s.cfg s.a0))
  | passed {ch : Channel} {st : Stage} {i : Instr} (hi : i ∈ instanceInstrs ch st)
      (hprep : s.eng.prep = false) : CommandEffect s i (s.setResult s.a0)
  | sampled {ch : Channel} {st : Stage} {i : Instr} (hi : i ∈ instanceInstrs ch st)
      (hprep : s.eng.prep = true) (hnan : s.nanIn st ((usedParams i).map Prod.snd) = false) :
      CommandEffect s i (s.sampled ch st i)

theorem execPrepare_effect (s : State) :
    ∃ t, execPrepare s = .next t ∧ CommandEffect s .prepare t := by
  have hfault := faultOf_prepare s
  unfold execPrepare
  split_ifs at hfault ⊢ with hrate hsize
  · exact ⟨_, rfl, .fault hfault⟩
  · exact ⟨_, rfl, .fault hfault⟩
  · exact ⟨_, rfl, .prepare hfault (by simpa using hrate) (by simpa using hsize)⟩

theorem execProcessBlock_effect (s : State) :
    ∃ t, execProcessBlock s = .next t ∧ CommandEffect s .processBlock t := by
  have hfault := faultOf_processBlock s
  rcases execProcessBlock_cases s with ⟨hlen, h⟩ | ⟨_, hprep, h⟩ | ⟨hlen, hprep, ⟨hbyp, hnan⟩, h⟩ |
    ⟨hlen, hprep, hnan, h⟩
  · rw [if_pos hlen] at hfault
    exact ⟨_, h, .fault hfault⟩
  · exact ⟨_, h, .blockPassed hprep⟩
  · rw [if_neg hlen.not_gt, hprep, hbyp, hnan] at hfault
    exact ⟨_, h, .fault hfault⟩
  · exact ⟨_, h, .blockRun hprep hlen hnan⟩

theorem instanceInstr_effect {ch : Channel} {st : Stage} {i : Instr} (hi : i ∈ instanceInstrs ch st)
    (s : State) : ∃ t, exec i s = .next t ∧ CommandEffect s i t := by
  have hfault := faultOf_instanceInstr hi s
  refine ⟨_, exec_eq_instanceCommand hi s, ?_⟩
  rcases instanceCommand_cases ch st ((usedParams i).map Prod.snd) (moduleOf s i) s with
    ⟨hprep, h⟩ | ⟨hprep, hnan, h⟩ | ⟨hprep, hnan, h⟩ <;> rw [h]
  · exact .passed hi hprep
  · rw [hprep, hnan] at hfault
    exact .fault hfault
  · exact .sampled hi hprep hnan

/-- Every command ends in a next state, by one of its effects. -/
theorem exec_effect (i : Instr) (s : State) : ∃ t, exec i s = .next t ∧ CommandEffect s i t := by
  cases i with
  | prepare => exact execPrepare_effect s
  | reset => exact ⟨_, rfl, .reset⟩
  | processBlock => exact execProcessBlock_effect s
  | softclip => exact ⟨_, rfl, .softclip⟩
  | stageSample ch st | compress ch st | delaySample ch st | bbdSample ch st | expand ch st
  | filterSample ch st | mixSample ch st =>
    exact instanceInstr_effect (ch := ch) (st := st) (by simp [instanceInstrs]) s

/-- Whatever state a command ends in, one of its effects led there. -/
theorem CommandEffect.of_exec {i : Instr} {s t : State} (h : exec i s = .next t) :
    CommandEffect s i t := by
  obtain ⟨u, hexec, heffect⟩ := exec_effect i s
  rw [h] at hexec
  exact Host.Outcome.next.inj hexec ▸ heffect

/-! ## What the effects leave in each field -/

section
variable (s : State)

/-- The instances do not depend on the events to come and the log of reads. -/
theorem State.inst_outside (host : List HostEvent) (reads : List Word) (ch : Channel) (st : Stage) :
    ({ s with host := host, reads := reads } : State).inst ch st = s.inst ch st := by
  cases ch <;> cases st <;> rfl

@[simp] theorem State.inst_prepared (ch : Channel) (st : Stage) : s.prepared.inst ch st =
    prepareInst s.cfg (lowpass s.cfg s.sampleRateOperand dbl5000) (s.inst ch st) := by
  cases ch <;> cases st <;> rfl

@[simp] theorem State.inst_cleared (ch : Channel) (st : Stage) :
    s.cleared.inst ch st = clearInst s.cfg (s.inst ch st) := by
  cases ch <;> cases st <;> rfl

@[simp] theorem State.blockProcessed_err : s.blockProcessed.err = s.err := by
  simp [State.blockProcessed]
@[simp] theorem State.blockProcessed_eng : s.blockProcessed.eng = s.eng := by
  simp [State.blockProcessed]

variable (ch : Channel) (st : Stage) (i : Instr)

@[simp] theorem State.sampled_cfg : (s.sampled ch st i).cfg = s.cfg := by simp [State.sampled]
@[simp] theorem State.sampled_err : (s.sampled ch st i).err = s.err := by simp [State.sampled]
@[simp] theorem State.sampled_eng : (s.sampled ch st i).eng = s.eng := by simp [State.sampled]
@[simp] theorem State.sampled_mem : (s.sampled ch st i).mem = s.mem := by simp [State.sampled]

theorem State.inst_sampled (ch' : Channel) (st' : Stage) : (s.sampled ch st i).inst ch' st' =
    if ch' = ch ∧ st' = st then (moduleOf s i (s.inst ch st)).1 else s.inst ch' st' := by
  rw [State.sampled, State.inst_setResult, State.inst_setInst]

end

end Sys2Proof.Machine
end

section
/-! The host window: what a write leaves in every field and what every offset reads as after it (R24, R62, R65, R66). -/

namespace Sys2Proof.Machine

/-! ## Registers -/

section
variable (s : State) (off : Nat) (v : Word)

@[simp] theorem State.writeReg_cfg : (s.writeReg off v).cfg = s.cfg := by
  unfold State.writeReg; split <;> rfl
@[simp] theorem State.writeReg_err : (s.writeReg off v).err = s.err := by
  unfold State.writeReg; split <;> rfl
@[simp] theorem State.writeReg_eng : (s.writeReg off v).eng = s.eng := by
  unfold State.writeReg; split <;> rfl
@[simp] theorem State.writeReg_result : (s.writeReg off v).result = s.result := by
  unfold State.writeReg; split <;> rfl
@[simp] theorem State.writeReg_mem : (s.writeReg off v).mem = s.mem := by
  unfold State.writeReg; split <;> rfl
@[simp] theorem State.writeReg_host : (s.writeReg off v).host = s.host := by
  unfold State.writeReg; split <;> rfl
@[simp] theorem State.writeReg_control : (s.writeReg off v).control = s.control := by
  unfold State.writeReg; split <;> rfl
@[simp] theorem State.writeReg_reads : (s.writeReg off v).reads = s.reads := by
  unfold State.writeReg; split <;> rfl
@[simp] theorem State.inst_writeReg (ch : Channel) (st : Stage) :
    (s.writeReg off v).inst ch st = s.inst ch st := by
  unfold State.writeReg; split <;> rfl

end

/-- A read-only or reserved register ignores a write (R66). -/
theorem writeReg_of_not_writable (s : State) {off : Nat} (v : Word)
    (h : writableRegs.contains off = false) : s.writeReg off v = s := by
  unfold State.writeReg
  split
  case h_17 => rfl
  all_goals exact absurd h (by decide)

/-- The words above the registers of R24 are reserved (R66). -/
theorem readReg_reserved (s : State) {off : Nat} (h : 0x064 ≤ off) : s.readReg off = 0#32 := by
  unfold State.readReg
  split
  case h_23 => rfl
  all_goals omega

/-- What CTRL reads as after a write of `v` (R27). -/
theorem ctrlBits_word (v : Word) : 0#30 ++ ctrlBits v = v &&& 3#32 := by
  apply BitVec.eq_of_toNat_eq
  rw [BitVec.toNat_append, ctrlBits, BitVec.extractLsb'_toNat, BitVec.toNat_and]
  simpa using (Nat.and_two_pow_sub_one_eq_mod v.toNat 2).symm

/-- A writable register reads as the word written, of which CTRL keeps bits 1:0. -/
theorem readReg_writeReg_same (s : State) {off : Nat} (v : Word)
    (h : writableRegs.contains off = true) : (s.writeReg off v).readReg off = storedWord off v := by
  unfold State.writeReg
  split
  case h_1 => exact ctrlBits_word v
  case h_17 hne => simp_all [writableRegs]
  all_goals rfl

/-- A write to one register leaves what every other one reads as. -/
theorem readReg_writeReg_other (s : State) {off off' : Nat} (v : Word) (h : off' ≠ off) :
    (s.writeReg off v).readReg off' = s.readReg off' := by
  unfold State.writeReg
  split
  case h_17 => rfl
  all_goals
    unfold State.readReg
    split <;> first | rfl | exact absurd rfl h

theorem readReg_writeReg (s : State) (off off' : Nat) (v : Word) :
    (s.writeReg off v).readReg off' =
      if off' = off ∧ writableRegs.contains off = true then storedWord off v else s.readReg off' := by
  by_cases heq : off' = off
  · subst heq
    cases hwritable : writableRegs.contains off'
    · simp [writeReg_of_not_writable s v hwritable]
    · simp [readReg_writeReg_same s v hwritable]
  · simp [heq, readReg_writeReg_other s v heq]

/-! ## Sample buffers -/

theorem bufWrite_of_reserved (s : State) (ch : Channel) {i : Nat} (v : Word)
    (h : s.cfg.bufWords ≤ i) : s.bufWrite ch i v = s := by
  rw [State.bufWrite, if_neg h.not_gt]

theorem bufOffset_left (i : Nat) : bufOffset .left i = 0x10000 + 4 * i := rfl
theorem bufOffset_right (i : Nat) : bufOffset .right i = 0x20000 + 4 * i := rfl

/-- Every aligned offset of the window above the registers is that of one buffer word, present or reserved (R62). -/
theorem exists_bufOffset {off : Nat} (hlow : 0x10000 ≤ off) (hhigh : off < 0x30000)
    (halign : off % 4 = 0) : ∃ ch i, i < 0x4000 ∧ off = bufOffset ch i := by
  by_cases hleft : off < 0x20000
  · exact ⟨.left, (off - 0x10000) / 4, by omega, by rw [bufOffset_left]; omega⟩
  · exact ⟨.right, (off - 0x20000) / 4, by omega, by rw [bufOffset_right]; omega⟩

/-- Two buffer words share an offset only when they are the same. -/
theorem bufOffset_inj {ch ch' : Channel} {i j : Nat} (hi : i < 0x4000) (hj : j < 0x4000) :
    bufOffset ch' j = bufOffset ch i ↔ ch' = ch ∧ j = i := by
  cases ch <;> cases ch' <;> simp [bufOffset_left, bufOffset_right] <;> omega

theorem windowRead_bufOffset (s : State) (ch : Channel) {i : Nat} (hi : i < 0x4000) :
    s.windowRead (bufOffset ch i) = s.bufRead ch i := by
  cases ch with
  | left =>
    rw [bufOffset_left, State.windowRead, if_neg (by omega), if_pos (by omega)]
    congr 1
    omega
  | right =>
    rw [bufOffset_right, State.windowRead, if_neg (by omega), if_neg (by omega)]
    congr 1
    omega

theorem windowWrite_bufOffset (s : State) (ch : Channel) {i : Nat} (v : Word) (hi : i < 0x4000) :
    s.windowWrite (bufOffset ch i) v = s.bufWrite ch i v := by
  cases ch with
  | left =>
    rw [bufOffset_left, State.windowWrite, if_neg (by omega), if_pos (by omega)]
    congr 1
    omega
  | right =>
    rw [bufOffset_right, State.windowWrite, if_neg (by omega), if_neg (by omega)]
    congr 1
    omega

theorem storesAt_bufOffset {c : Cfg} (hc : c.legal = true) (ch : Channel) {i : Nat} (hi : i < 0x4000) :
    storesAt c (bufOffset ch i) = decide (i < c.bufWords) := by
  obtain ⟨-, hwords⟩ := (cfg_legal_iff c).mp hc
  have hhigh : ¬ bufOffset ch i < 0x10000 := by cases ch <;> simp only [bufOffset_left, bufOffset_right] <;> omega
  rw [storesAt, decide_eq_false hhigh, Bool.false_and, Bool.false_or, Bool.eq_iff_iff, bufferByte,
    Bool.or_eq_true, Bool.and_eq_true, Bool.and_eq_true]
  simp only [decide_eq_true_iff]
  cases ch <;> simp only [bufOffset_left, bufOffset_right] <;> omega

theorem storesAt_register {c : Cfg} {off : Nat} (h : off < 0x10000) :
    storesAt c off = writableRegs.contains off := by
  have hbuffer : bufferByte c off = false := by
    rw [← Bool.not_eq_true, bufferByte, Bool.or_eq_true, Bool.and_eq_true, Bool.and_eq_true]
    simp only [decide_eq_true_iff]
    omega
  rw [storesAt, hbuffer, Bool.or_false, decide_eq_true h, Bool.true_and]

/-! ## The window -/

theorem windowRead_register (s : State) {off : Nat} (h : off < 0x10000) :
    s.windowRead off = s.readReg off := by
  rw [State.windowRead, if_pos h]

theorem windowWrite_register (s : State) {off : Nat} (v : Word) (h : off < 0x10000) :
    s.windowWrite off v = s.writeReg off v := by
  rw [State.windowWrite, if_pos h]

/-- A write anywhere in the window is a register write or the write of one buffer word. -/
theorem windowWrite_cases (s : State) (off : Nat) (v : Word) :
    (off < 0x10000 ∧ s.windowWrite off v = s.writeReg off v) ∨
    (0x10000 ≤ off ∧ ∃ ch i, s.windowWrite off v = s.bufWrite ch i v ∧
      (storesAt s.cfg off = false → s.cfg.bufWords ≤ i)) := by
  have hstores : 0x10000 ≤ off → storesAt s.cfg off = false →
      0x10000 + 4 * s.cfg.bufWords ≤ off ∧ (0x20000 ≤ off → 0x20000 + 4 * s.cfg.bufWords ≤ off) := by
    intro hoff h
    rw [← Bool.not_eq_true, storesAt, Bool.or_eq_true, bufferByte, Bool.or_eq_true, Bool.and_eq_true,
      Bool.and_eq_true, Bool.and_eq_true] at h
    simp only [decide_eq_true_iff] at h
    omega
  unfold State.windowWrite
  split_ifs with hreg hleft
  · exact .inl ⟨hreg, rfl⟩
  · exact .inr ⟨by omega, .left, _, rfl, fun h => by have := hstores (by omega) h; omega⟩
  · exact .inr ⟨by omega, .right, _, rfl, fun h => by have := hstores (by omega) h; omega⟩

/-- Settles O7: the registers by the branches of the read, the buffers by their offsets. -/
theorem registerMap : Obligations.RegisterMap := by
  intro s hlegal
  obtain ⟨-, hwords⟩ := (cfg_legal_iff s.cfg).mp hlegal
  refine ⟨?_, fun off hlow hhigh => ?_, fun i hi => ?_, fun i hi hend => ?_⟩
  · simp only [List.forall_mem_cons, List.not_mem_nil, false_imp_iff, implies_true, and_true]
    exact ⟨rfl, rfl, rfl, rfl, rfl, rfl, rfl, rfl, rfl, rfl, rfl, rfl, rfl, rfl, rfl, rfl, rfl, rfl, rfl,
      rfl, rfl, rfl, rfl, rfl, rfl⟩
  · rw [windowRead_register s hhigh, readReg_reserved s hlow]
  · exact ⟨windowRead_bufOffset s .left (by omega), windowRead_bufOffset s .right (by omega)⟩
  · have hreserved : ∀ ch, s.bufRead ch i = 0#32 := fun ch => by rw [State.bufRead, if_neg hi.not_gt]
    exact ⟨(windowRead_bufOffset s .left hend).trans (hreserved .left),
      (windowRead_bufOffset s .right hend).trans (hreserved .right)⟩

/-- Settles O8: STATUS is made of PREPARED and the four bits of ERR, CTRL of its two bits, and each of their values shows its fields. -/
theorem statusAndControlFields : Obligations.StatusAndControlFields := by
  intro s
  unfold State.statusWord State.ctrlWord State.bypass State.cascaded
  generalize s.eng.prep = prep, s.err = err, s.ctrl = ctrl
  revert prep err ctrl
  decide

/-- A buffer word does not depend on the registers. -/
theorem bufRead_congr {s t : State} (hcfg : t.cfg = s.cfg) (hmem : t.mem = s.mem) (ch : Channel) (i : Nat) :
    t.bufRead ch i = s.bufRead ch i := by
  rw [State.bufRead, State.bufRead, hcfg, hmem]

/-- The registers do not depend on the sample buffers. -/
theorem readReg_bufWrite (s : State) (ch : Channel) (i off : Nat) (v : Word) :
    (s.bufWrite ch i v).readReg off = s.readReg off := by
  unfold State.bufWrite
  split
  · unfold State.readReg
    split <;> rfl
  · rfl

/-- Settles O10: the register written, the buffer word written, and every word of the other kind. -/
theorem writeThenRead : Obligations.WriteThenRead := by
  intro s off off' v hlegal hwf _ hoff hoff' halign halign'
  obtain ⟨-, hwords⟩ := (cfg_legal_iff s.cfg).mp hlegal
  rcases Nat.lt_or_ge off 0x10000 with hreg | hbuf
  · rw [windowWrite_register s v hreg, storesAt_register hreg]
    rcases Nat.lt_or_ge off' 0x10000 with hreg' | hbuf'
    · rw [windowRead_register _ hreg', windowRead_register _ hreg', readReg_writeReg]
    · obtain ⟨ch', j, hj, rfl⟩ := exists_bufOffset hbuf' hoff' halign'
      rw [windowRead_bufOffset _ _ hj, windowRead_bufOffset _ _ hj, if_neg (by omega),
        bufRead_congr (State.writeReg_cfg ..) (State.writeReg_mem ..)]
  · obtain ⟨ch, i, hi, rfl⟩ := exists_bufOffset hbuf hoff halign
    have hword : storedWord (bufOffset ch i) v = v := if_neg (by omega)
    rw [windowWrite_bufOffset s ch v hi, hword]
    simp only [storesAt_bufOffset hlegal ch hi, decide_eq_true_iff]
    rcases Nat.lt_or_ge off' 0x10000 with hreg' | hbuf'
    · rw [windowRead_register _ hreg', windowRead_register _ hreg', readReg_bufWrite, if_neg (by omega)]
    · obtain ⟨ch', j, hj, rfl⟩ := exists_bufOffset hbuf' hoff' halign'
      rw [windowRead_bufOffset _ _ hj, windowRead_bufOffset _ _ hj]
      simp only [bufOffset_inj hi hj]
      rcases Nat.lt_or_ge i s.cfg.bufWords with hin | hout
      · rw [bufRead_bufWrite s ch ch' i j v hwf hin hwords]
        simp only [hin, and_true]
      · rw [bufWrite_of_reserved s ch v hout, if_neg (fun h => by omega)]

/-- Settles O11: the frame of a register write and of a buffer write. -/
theorem writesTouchOnlyTheirWord : Obligations.WritesTouchOnlyTheirWord := by
  intro s off v _
  rcases windowWrite_cases s off v with ⟨hreg, hwrite⟩ | ⟨hbuf, ch, i, hwrite, hreserved⟩ <;> rw [hwrite]
  · refine ⟨by simp, by simp, by simp, by simp, by simp, by simp, by simp, by simp, fun _ a => ?_,
      fun _ hnone => ?_⟩
    · rw [State.readByte, State.writeReg_mem, State.readByte]
    · exact writeReg_of_not_writable s v (storesAt_register hreg ▸ hnone)
  · exact ⟨by simp, by simp, by simp, by simp, by simp, by simp, by simp, by simp, fun h => by omega,
      fun _ hnone => bufWrite_of_reserved s ch v (hreserved hnone)⟩

end Sys2Proof.Machine
end

section
/-! The block: what one sample does, that a channel's loop is ENGINE over the channel's samples, that CTRL writes miss it, and that the channels' samples commute (R28, R70, R72, R77, R234, R240). -/

namespace Sys2Proof.Machine

/-! ## One buffer word stored -/

/-- The bytes after a word is stored, by their place in the word. -/
theorem cellGet_setWordAt_byte {m : List Host.Cell} (a x : Nat) (v : Word) (h : Memory.wf m = true) :
    cellGet (setWordAt m a v) x =
      if a ≤ x ∧ x < a + 4 then v.extractLsb' (8 * (x - a)) 8 else cellGet m x := by
  rw [cellGet_setWordAt a x v h]
  by_cases hin : a ≤ x ∧ x < a + 4
  · obtain ⟨d, rfl⟩ := Nat.exists_eq_add_of_le hin.1
    have hd : d = 0 ∨ d = 1 ∨ d = 2 ∨ d = 3 := by omega
    rcases hd with rfl | rfl | rfl | rfl <;> simp
  · rw [if_neg hin, if_neg (by omega), if_neg (by omega), if_neg (by omega), if_neg (by omega)]

/-- Stores of words that share no byte commute. -/
theorem setWordAt_comm {m : List Host.Cell} {a b : Nat} (v w : Word) (h : Memory.wf m = true)
    (hab : a + 4 ≤ b ∨ b + 4 ≤ a) :
    setWordAt (setWordAt m a v) b w = setWordAt (setWordAt m b w) a v := by
  have ha := setWordAt_wf a v h
  have hb := setWordAt_wf b w h
  refine cells_ext (setWordAt_wf b w ha) (setWordAt_wf a v hb) fun x => ?_
  rw [cellGet_setWordAt_byte _ _ _ ha, cellGet_setWordAt_byte _ _ _ hb, cellGet_setWordAt_byte _ _ _ h,
    cellGet_setWordAt_byte _ _ _ h]
  split_ifs <;> first | rfl | omega

theorem bufWrite_mem (s : State) (ch : Channel) (i : Nat) (v : Word) : (s.bufWrite ch i v).mem =
    if i < s.cfg.bufWords then setWordAt s.mem (bufOffset ch i) v else s.mem := by
  unfold State.bufWrite; split <;> rfl

theorem bufRead_bufWrite_otherChannel {s : State} (hlegal : s.cfg.legal = true)
    (hwf : Memory.wf s.mem = true) {ch ch' : Channel} (hne : ch' ≠ ch) (i j : Nat) (v : Word) :
    (s.bufWrite ch i v).bufRead ch' j = s.bufRead ch' j := by
  rcases Nat.lt_or_ge i s.cfg.bufWords with hin | hout
  · rw [bufRead_bufWrite s ch ch' i j v hwf hin ((cfg_legal_iff _).mp hlegal).2, if_neg (by simp [hne])]
  · rw [bufWrite_of_reserved s ch v hout]

/-! ## One sample -/

/-- One stage of a channel's pair of instances. -/
def ofStage (pair : Inst × Inst) : Stage → Inst
  | .one => pair.1
  | .two => pair.2

@[simp] theorem ofStage_one (pair : Inst × Inst) : ofStage pair .one = pair.1 := rfl
@[simp] theorem ofStage_two (pair : Inst × Inst) : ofStage pair .two = pair.2 := rfl

/-- What ENGINE makes of sample `i` of a channel (R234). -/
def sampleResult (b : BlockRun) (ch : Channel) (i : Nat) (s : State) : (Inst × Inst) × F32 :=
  engineSample s.cfg s.eng ch b (s.bufRead ch i) (s.inst ch .one, s.inst ch .two)

/-- The state with a channel's instances and one of its buffer words replaced. -/
def State.putSample (s : State) (ch : Channel) (i : Nat) (r : (Inst × Inst) × F32) : State :=
  ((s.setInst ch .one r.1.1).setInst ch .two r.1.2).bufWrite ch i r.2

/-- A sample stores its result, after the CTRL writes that have arrived. -/
theorem sampleStep_eq (b : BlockRun) (ch : Channel) (i : Nat) (s : State) : sampleStep b ch i s =
    (s.controlArrivals (samplesBefore b ch i)).putSample ch i (sampleResult b ch i s) := by
  have hread : (s.controlArrivals (samplesBefore b ch i)).bufRead ch i = s.bufRead ch i :=
    bufRead_congr rfl rfl ch i
  simp only [sampleStep, State.putSample, sampleResult, hread, State.inst_controlArrivals,
    State.controlArrivals_cfg, State.controlArrivals_eng]

section
variable (s : State) (ch : Channel) (i : Nat) (r : (Inst × Inst) × F32)

@[simp] theorem State.putSample_cfg : (s.putSample ch i r).cfg = s.cfg := by simp [State.putSample]
@[simp] theorem State.putSample_eng : (s.putSample ch i r).eng = s.eng := by simp [State.putSample]
@[simp] theorem State.putSample_ctrl : (s.putSample ch i r).ctrl = s.ctrl := by simp [State.putSample]
@[simp] theorem State.putSample_control : (s.putSample ch i r).control = s.control := by
  simp [State.putSample]
theorem State.putSample_mem : (s.putSample ch i r).mem = (s.bufWrite ch i r.2).mem := by
  simp [State.putSample, bufWrite_mem]
theorem State.inst_putSample (ch' : Channel) (st : Stage) : (s.putSample ch i r).inst ch' st =
    if ch' = ch then ofStage r.1 st else s.inst ch' st := by
  by_cases hch : ch' = ch <;> cases st <;> simp [State.putSample, State.inst_setInst, hch, ofStage]
theorem State.bufRead_putSample (ch' : Channel) (j : Nat) :
    (s.putSample ch i r).bufRead ch' j = (s.bufWrite ch i r.2).bufRead ch' j :=
  bufRead_congr (by simp) (s.putSample_mem ch i r) ch' j

end

section
variable (b : BlockRun) (ch : Channel) (i : Nat) (s : State)

theorem sampleStep_mem :
    (sampleStep b ch i s).mem = (s.bufWrite ch i (sampleResult b ch i s).2).mem := by
  rw [sampleStep_eq, State.putSample_mem, bufWrite_mem, bufWrite_mem]
  rfl

theorem inst_sampleStep (ch' : Channel) (st : Stage) : (sampleStep b ch i s).inst ch' st =
    if ch' = ch then ofStage (sampleResult b ch i s).1 st else s.inst ch' st := by
  rw [sampleStep_eq, State.inst_putSample, State.inst_controlArrivals]

theorem bufRead_sampleStep (ch' : Channel) (j : Nat) : (sampleStep b ch i s).bufRead ch' j =
    (s.bufWrite ch i (sampleResult b ch i s).2).bufRead ch' j :=
  bufRead_congr (by simp) (sampleStep_mem b ch i s) ch' j

theorem sampleStep_wf (h : Memory.wf s.mem = true) : Memory.wf (sampleStep b ch i s).mem = true := by
  rw [sampleStep_mem]
  exact bufWrite_wf s ch i _ h

theorem channelLoop_wf (k : Nat) (h : Memory.wf s.mem = true) :
    Memory.wf (channelLoop b ch k i s).mem = true :=
  channelLoop_keeps (fun t => Memory.wf t.mem = true) b ch (sampleStep_wf b ch) k i s h

end

/-! ## The bytes outside the block -/

theorem readByte_sampleStep (b : BlockRun) {ch : Channel} {i n a : Nat} {s : State}
    (hwf : Memory.wf s.mem = true) (hi : i < n) (ha : ¬ inBlock n a) :
    (sampleStep b ch i s).readByte a = s.readByte a := by
  have hout : a < bufOffset ch i ∨ bufOffset ch i + 4 ≤ a := by
    by_contra hin
    exact ha ⟨ch, by unfold bufOffset at hin; omega, by unfold bufOffset at hin; omega⟩
  have hmem : (sampleStep b ch i s).readByte a =
      (s.bufWrite ch i (sampleResult b ch i s).2).readByte a := by
    rw [State.readByte, sampleStep_mem, State.readByte]
  rw [hmem, readByte_bufWrite_other s ch i _ a hwf hout]

theorem readByte_channelLoop (b : BlockRun) (ch : Channel) {n a : Nat} (ha : ¬ inBlock n a) :
    ∀ (k i : Nat) (s : State), Memory.wf s.mem = true → i + k ≤ n →
      (channelLoop b ch k i s).readByte a = s.readByte a
  | 0, _, _, _, _ => rfl
  | k + 1, i, s, hwf, hn => by
    rw [channelLoop, readByte_channelLoop b ch ha k (i + 1) _ (sampleStep_wf b ch i s hwf) (by omega),
      readByte_sampleStep b hwf (by omega : i < n) ha]

theorem readByte_blockProcessed {s : State} (hwf : Memory.wf s.mem = true) {a : Nat}
    (ha : ¬ inBlock s.blockLen.toNat a) : s.blockProcessed.readByte a = s.readByte a := by
  have hn : 0 + s.snapshot.n ≤ s.blockLen.toNat := (Nat.zero_add _).le
  rw [State.blockProcessed, readByte_channelLoop _ _ ha _ _ _ (channelLoop_wf _ _ _ _ _ hwf) hn,
    readByte_channelLoop _ _ ha _ _ _ hwf hn]

/-! ## A channel's loop is ENGINE over its samples -/

/-- The samples of one channel leave the other channel's words and instances. -/
theorem channelLoop_otherChannel (b : BlockRun) {ch ch' : Channel} (hne : ch' ≠ ch) (k i : Nat)
    {s : State} (hlegal : s.cfg.legal = true) (hwf : Memory.wf s.mem = true) :
    (∀ st, (channelLoop b ch k i s).inst ch' st = s.inst ch' st) ∧
    (∀ j, (channelLoop b ch k i s).bufRead ch' j = s.bufRead ch' j) := by
  suffices h : (channelLoop b ch k i s).cfg.legal = true ∧ Memory.wf (channelLoop b ch k i s).mem = true ∧
      (∀ st, (channelLoop b ch k i s).inst ch' st = s.inst ch' st) ∧
      (∀ j, (channelLoop b ch k i s).bufRead ch' j = s.bufRead ch' j) from h.2.2
  refine channelLoop_keeps (fun t => t.cfg.legal = true ∧ Memory.wf t.mem = true ∧
    (∀ st, t.inst ch' st = s.inst ch' st) ∧ (∀ j, t.bufRead ch' j = s.bufRead ch' j)) b ch ?_ k i s
    ⟨hlegal, hwf, fun _ => rfl, fun _ => rfl⟩
  rintro m t ⟨hlegal, hwf, hinst, hread⟩
  refine ⟨by simpa using hlegal, sampleStep_wf b ch m t hwf, fun st => ?_, fun j => ?_⟩
  · rw [inst_sampleStep, if_neg hne, hinst]
  · rw [bufRead_sampleStep, bufRead_bufWrite_otherChannel hlegal hwf hne, hread]

/-- The samples of a channel from index `i` on are ENGINE over its words from `i` on, stored in place; its other words stay. -/
theorem channelLoop_runs (b : BlockRun) (ch : Channel) :
    ∀ (k i : Nat) (s : State), s.cfg.legal = true → Memory.wf s.mem = true → i + k ≤ s.cfg.bufWords →
      (channelLoop b ch k i s).inst ch =
        ofStage (runChannel s.cfg s.eng ch b ((List.range' i k).map (s.bufRead ch))
          (s.inst ch .one, s.inst ch .two)).1 ∧
      (List.range' i k).map ((channelLoop b ch k i s).bufRead ch) =
        (runChannel s.cfg s.eng ch b ((List.range' i k).map (s.bufRead ch))
          (s.inst ch .one, s.inst ch .two)).2 ∧
      (∀ j < i, (channelLoop b ch k i s).bufRead ch j = s.bufRead ch j)
  | 0, _, _, _, _, _ => ⟨by funext st; cases st <;> rfl, rfl, fun _ _ => rfl⟩
  | k + 1, i, s, hlegal, hwf, hwords => by
    have hread : ∀ j, (sampleStep b ch i s).bufRead ch j =
        if ch = ch ∧ j = i then (sampleResult b ch i s).2 else s.bufRead ch j := fun j => by
      rw [bufRead_sampleStep, bufRead_bufWrite s ch ch i j _ hwf (by omega) ((cfg_legal_iff _).mp hlegal).2]
    have hlater : (List.range' (i + 1) k).map ((sampleStep b ch i s).bufRead ch) =
        (List.range' (i + 1) k).map (s.bufRead ch) := by
      refine List.map_congr_left fun j hj => ?_
      rw [hread, if_neg (by have := List.mem_range'_1.mp hj; omega)]
    have hpair : ((sampleStep b ch i s).inst ch .one, (sampleStep b ch i s).inst ch .two) =
        (sampleResult b ch i s).1 := by
      rw [inst_sampleStep, inst_sampleStep, if_pos rfl, if_pos rfl]; rfl
    obtain ⟨hinst, hout, hbefore⟩ := channelLoop_runs b ch k (i + 1) (sampleStep b ch i s)
      (by simpa using hlegal) (sampleStep_wf b ch i s hwf) (by simp; omega)
    rw [hlater, hpair, sampleStep_cfg, sampleStep_eng] at hinst hout
    have hown : (channelLoop b ch k (i + 1) (sampleStep b ch i s)).bufRead ch i =
        (sampleResult b ch i s).2 := by
      rw [hbefore i (by omega), hread, if_pos ⟨rfl, rfl⟩]
    simp only [channelLoop, List.range'_succ, List.map_cons, runChannel, hinst, hout, hown]
    refine ⟨rfl, rfl, fun j hj => ?_⟩
    rw [hbefore j (by omega), hread, if_neg (by omega)]

/-- Every channel's words and instances after a block (R240). -/
theorem blockProcessed_runs {s : State} (hlegal : s.cfg.legal = true) (hwf : Memory.wf s.mem = true)
    (hlen : s.blockLen.toNat ≤ s.cfg.bufWords) (ch : Channel) :
    s.blockProcessed.inst ch = ofStage (runChannel s.cfg s.eng ch s.snapshot
        (s.samples ch s.blockLen.toNat) (s.inst ch .one, s.inst ch .two)).1 ∧
    s.blockProcessed.samples ch s.blockLen.toNat = (runChannel s.cfg s.eng ch s.snapshot
        (s.samples ch s.blockLen.toNat) (s.inst ch .one, s.inst ch .two)).2 := by
  have hn : 0 + s.snapshot.n ≤ s.cfg.bufWords := by rw [Nat.zero_add]; exact hlen
  have hlegal' : (channelLoop s.snapshot .left s.snapshot.n 0 s).cfg.legal = true := by simpa using hlegal
  have hwf' := channelLoop_wf s.snapshot .left 0 s s.snapshot.n hwf
  obtain ⟨hinst, hread⟩ := channelLoop_otherChannel s.snapshot
    (show Channel.right ≠ .left by decide) s.snapshot.n 0 hlegal hwf
  obtain ⟨hinst', hread'⟩ := channelLoop_otherChannel s.snapshot
    (show Channel.left ≠ .right by decide) s.snapshot.n 0 hlegal' hwf'
  simp only [State.samples, List.range_eq_range']
  cases ch with
  | left =>
    obtain ⟨hown, hout, -⟩ := channelLoop_runs s.snapshot .left s.snapshot.n 0 s hlegal hwf hn
    rw [State.blockProcessed, funext hinst', funext hread']
    exact ⟨hown, hout⟩
  | right =>
    obtain ⟨hown, hout, -⟩ :=
      channelLoop_runs s.snapshot .right s.snapshot.n 0 _ hlegal' hwf' (by simpa using hn)
    rw [funext hread, hinst, hinst, channelLoop_cfg, channelLoop_eng] at hown hout
    exact ⟨hown, hout⟩

/-- A block that meets no fault condition on a prepared core runs. -/
theorem exec_processBlock_run {s : State} (hprep : s.eng.prep = true)
    (hnone : faultOf .processBlock s = none) :
    exec .processBlock s = .next s.blockProcessed ∧ s.blockLen.toNat ≤ s.eng.maxb.toNat := by
  obtain ⟨t, hexec, heffect⟩ := exec_effect .processBlock s
  cases heffect with
  | fault hfault => rw [hnone] at hfault; cases hfault
  | blockPassed h => rw [hprep] at h; cases h
  | blockRun _ hlen _ => exact ⟨hexec, by rwa [State.blockLimit, if_pos hprep] at hlen⟩
  | passed hi => simp [instanceInstrs] at hi
  | sampled hi => simp [instanceInstrs] at hi

/-- Settles O37: each channel's loop is ENGINE over its samples, and leaves the other channel. -/
theorem blockRunsBothChannels : Obligations.BlockRunsBothChannels := by
  intro s hlegal hinstalled hwf hprep hnone n b
  obtain ⟨hexec, hmaxb⟩ := exec_processBlock_run hprep hnone
  have hwords : s.eng.maxb.toNat ≤ s.cfg.bufWords := by
    rcases hinstalled with ⟨hpower, -⟩ | ⟨-, -, hsize, -⟩
    · rw [hprep] at hpower; cases hpower
    · simp only [blockSizeLegal, Bool.and_eq_true, decide_eq_true_iff] at hsize
      exact hsize.2
  refine ⟨s.blockProcessed, hexec, fun ch => ?_, fun a ha => readByte_blockProcessed hwf ha, ?_⟩
  · obtain ⟨hinst, hout⟩ := blockProcessed_runs hlegal hwf (hmaxb.trans hwords) ch
    exact ⟨congrFun hinst .one, congrFun hinst .two, hout⟩
  · simp [State.blockProcessed]

/-! ## CTRL writes inside the block -/

section
variable {s t : State} (h : SameButControl s t) (b : BlockRun) (ch : Channel)
include h

theorem SameButControl.controlArrivals (k : Nat) :
    SameButControl (s.controlArrivals k) (t.controlArrivals k) := by
  rw [h]
  rfl

theorem SameButControl.putSample (i : Nat) (r : (Inst × Inst) × F32) :
    SameButControl (s.putSample ch i r) (t.putSample ch i r) := by
  rw [h]
  unfold State.putSample State.bufWrite
  by_cases hi : i < s.cfg.bufWords <;> cases ch <;> simp [SameButControl, hi, State.setInst]

/-- ENGINE reads neither CTRL nor the CTRL writes to come (R72). -/
theorem SameButControl.sampleResult (i : Nat) : sampleResult b ch i t = sampleResult b ch i s := by
  rw [h]
  cases ch <;> rfl

theorem SameButControl.sampleStep (i : Nat) :
    SameButControl (sampleStep b ch i s) (sampleStep b ch i t) := by
  rw [sampleStep_eq, sampleStep_eq, h.sampleResult b ch i]
  exact (h.controlArrivals _).putSample ch i _

end

theorem SameButControl.channelLoop (b : BlockRun) (ch : Channel) : ∀ (k i : Nat) {s t : State},
    SameButControl s t → SameButControl (channelLoop b ch k i s) (channelLoop b ch k i t)
  | 0, _, _, _, h => h
  | k + 1, i, _, _, h => SameButControl.channelLoop b ch k (i + 1) (h.sampleStep b ch i)

/-- The CTRL writes that arrive while a block runs reach CTRL only: the snapshot is taken before them. -/
theorem sameButControl_blockProcessed (s : State) (l : List (Nat × Word)) :
    SameButControl s.blockProcessed ({ s with control := l } : State).blockProcessed :=
  .channelLoop s.snapshot .right _ _ (.channelLoop s.snapshot .left _ _ rfl)

theorem sampleStep_lastControl (b : BlockRun) (ch : Channel) (i : Nat) (s : State) :
    lastControl (sampleStep b ch i s).control (sampleStep b ch i s).ctrl = lastControl s.control s.ctrl := by
  rw [sampleStep_eq, State.putSample_control, State.putSample_ctrl]
  exact lastControl_dueControl _ s.control s.ctrl

theorem blockProcessed_lastControl (s : State) :
    lastControl s.blockProcessed.control s.blockProcessed.ctrl = lastControl s.control s.ctrl := by
  have hloop := fun ch => channelLoop_field (fun t : State => lastControl t.control t.ctrl) s.snapshot ch
    (sampleStep_lastControl s.snapshot ch)
  exact (hloop .right _ _ _).trans (hloop .left _ _ _)

/-- The last CTRL write is the one that stays. -/
theorem lastControl_eq (l : List (Nat × Word)) (ctrl : BitVec 2) :
    lastControl l ctrl = l.getLast?.elim ctrl fun w => ctrlBits w.2 := by
  induction l generalizing ctrl with
  | nil => rfl
  | cons w rest ih =>
    rw [lastControl, ih, List.getLast?_cons]
    cases rest.getLast? <;> rfl

/-- The state PROCESS_BLOCK leaves, by its tests in order (R240). -/
def State.blockOutcome (s : State) : State :=
  if s.blockLimit < s.blockLen.toNat then raiseFault .badBlockSize s
  else if !s.eng.prep then s
  else if !s.bypass && s.blockNaN then raiseFault .nanParameter s
  else s.blockProcessed

theorem exec_processBlock (s : State) : exec .processBlock s = .next s.blockOutcome := by
  show execProcessBlock s = _
  unfold execProcessBlock State.blockOutcome
  split_ifs <;> rfl

theorem SameButControl.raiseFault {s t : State} (h : SameButControl s t) (code : FaultCode) :
    SameButControl (raiseFault code s) (raiseFault code t) := by
  rw [raiseFault_eq, raiseFault_eq, h]
  rfl

theorem sameButControl_blockOutcome (s : State) (l : List (Nat × Word)) :
    SameButControl s.blockOutcome ({ s with control := l } : State).blockOutcome := by
  have hs : SameButControl s { s with control := l } := rfl
  show SameButControl s.blockOutcome
    (if s.blockLimit < s.blockLen.toNat then Machine.raiseFault .badBlockSize { s with control := l }
    else if !s.eng.prep then { s with control := l }
    else if !s.bypass && s.blockNaN then Machine.raiseFault .nanParameter { s with control := l }
    else ({ s with control := l } : State).blockProcessed)
  unfold State.blockOutcome
  split_ifs
  · exact hs.raiseFault _
  · exact hs
  · exact hs.raiseFault _
  · exact sameButControl_blockProcessed s l

theorem blockOutcome_lastControl (s : State) :
    lastControl s.blockOutcome.control s.blockOutcome.ctrl = lastControl s.control s.ctrl := by
  unfold State.blockOutcome
  split_ifs
  · simp
  · rfl
  · simp
  · exact blockProcessed_lastControl s

/-- Settles O42: a sample reads neither CTRL nor its writes, and performing some writes now and the rest at the end is performing all of them. -/
theorem controlWritesMissTheBlock : Obligations.ControlWritesMissTheBlock := by
  intro s t t' l h h'
  rw [exec_processBlock] at h h'
  obtain rfl := Host.Outcome.next.inj h
  obtain rfl := Host.Outcome.next.inj h'
  refine ⟨sameButControl_blockOutcome s l, ?_⟩
  rw [State.endCommand_ctrl, blockOutcome_lastControl, lastControl_eq]
  cases l.getLast? <;> rfl

/-! ## Interleavings of the two channels -/

/-- A state of a legal configuration with canonical memory and no CTRL write to come. -/
structure Quiet (s : State) : Prop where
  legal : s.cfg.legal = true
  wf : Memory.wf s.mem = true
  control : s.control = []

theorem controlArrivals_of_nil {s : State} (h : s.control = []) (k : Nat) : s.controlArrivals k = s := by
  rw [State.controlArrivals, h, dueControl, ← h]

section
variable {s : State} (hs : Quiet s) (b : BlockRun)
include hs

/-- With no CTRL write to come a sample is the storing of its result. -/
theorem Quiet.sampleStep_eq (ch : Channel) (i : Nat) :
    sampleStep b ch i s = s.putSample ch i (sampleResult b ch i s) := by
  rw [Machine.sampleStep_eq, controlArrivals_of_nil hs.control]

theorem Quiet.sampleStep (ch : Channel) (i : Nat) : Quiet (sampleStep b ch i s) where
  legal := by simpa using hs.legal
  wf := sampleStep_wf b ch i s hs.wf
  control := by rw [hs.sampleStep_eq, State.putSample_control, hs.control]

/-- A channel's result does not depend on the samples of the other channel (R31). -/
theorem Quiet.sampleResult_putSample {ch ch' : Channel} (hne : ch' ≠ ch) (i j : Nat)
    (r : (Inst × Inst) × F32) :
    sampleResult b ch' j (s.putSample ch i r) = sampleResult b ch' j s := by
  rw [sampleResult, sampleResult, State.putSample_cfg, State.putSample_eng, State.bufRead_putSample,
    bufRead_bufWrite_otherChannel hs.legal hs.wf hne, State.inst_putSample, State.inst_putSample,
    if_neg hne, if_neg hne]

/-- Samples of the two channels are stored in either order alike. -/
theorem Quiet.putSample_comm (i j : Nat) (r q : (Inst × Inst) × F32) :
    (s.putSample .left i r).putSample .right j q = (s.putSample .right j q).putSample .left i r := by
  obtain ⟨-, hwords⟩ := (cfg_legal_iff _).mp hs.legal
  simp only [State.putSample, State.bufWrite, State.setInst]
  by_cases hi : i < s.cfg.bufWords <;> by_cases hj : j < s.cfg.bufWords <;>
    simp only [hi, hj, if_true, if_false]
  rw [setWordAt_comm _ _ hs.wf (.inl (by rw [bufOffset_left, bufOffset_right]; omega))]

/-- The samples of the two channels commute (R77). -/
theorem Quiet.sampleStep_comm (i j : Nat) :
    Machine.sampleStep b .left i (Machine.sampleStep b .right j s) =
      Machine.sampleStep b .right j (Machine.sampleStep b .left i s) := by
  rw [(hs.sampleStep b .right j).sampleStep_eq, (hs.sampleStep b .left i).sampleStep_eq,
    hs.sampleStep_eq, hs.sampleStep_eq, hs.sampleResult_putSample b (by decide),
    hs.sampleResult_putSample b (by decide), hs.putSample_comm]

end

/-- A right sample may be taken before or after any number of left ones. -/
theorem Quiet.channelLoop_comm (b : BlockRun) (j : Nat) : ∀ (k i : Nat) {s : State}, Quiet s →
    channelLoop b .left k i (Machine.sampleStep b .right j s) =
      Machine.sampleStep b .right j (channelLoop b .left k i s)
  | 0, _, _, _ => rfl
  | k + 1, i, s, hs => by
    rw [channelLoop, channelLoop, hs.sampleStep_comm, channelLoop_comm b j k (i + 1) (hs.sampleStep b .left i)]

/-- Any schedule ends where its left samples followed by its right ones end. -/
theorem Quiet.runSchedule_eq (b : BlockRun) : ∀ (order : List Channel) (i j : Nat) {s : State}, Quiet s →
    runSchedule b order i j s = channelLoop b .right (order.count .right) j
      (channelLoop b .left (order.count .left) i s)
  | [], _, _, _, _ => rfl
  | .left :: rest, i, j, s, hs => by
    rw [runSchedule, runSchedule_eq b rest (i + 1) j (hs.sampleStep b .left i), List.count_cons_self,
      List.count_cons_of_ne (by decide), channelLoop]
  | .right :: rest, i, j, s, hs => by
    rw [runSchedule, runSchedule_eq b rest i (j + 1) (hs.sampleStep b .right j), List.count_cons_self,
      List.count_cons_of_ne (by decide), hs.channelLoop_comm, channelLoop]

/-- Settles O43: samples of different channels commute, so every schedule can be sorted into the model's order. -/
theorem anyInterleaving : Obligations.AnyInterleaving := by
  intro s order hlegal hwf hcontrol hprep hnone hleft hright
  rw [(exec_processBlock_run hprep hnone).1, Quiet.runSchedule_eq _ _ _ _ ⟨hlegal, hwf, hcontrol⟩, hleft,
    hright]
  rfl

end Sys2Proof.Machine
end

section
/-! What every step keeps: the sound machine, each of its instances and each command (R30, R32, R62, R139, R191, R192, R254, R255, R270). -/

namespace Sys2Proof.Machine

/-! ## Sound states by their parts -/

/-- Coefficients as a prepared core holds them: LPF(5000) in the anti-alias section, and in a tuned tone section those of its last tone (R191, R192). -/
def TunedFor (c : Cfg) (g : Engine) (f : FilterPair) : Prop :=
  f.aa = lowpass c g.fs dbl5000 ∧
  ∀ t, f.lastTone = some t →
    f.tn = lowpass c g.fs (toneCutoff t) ∧ fle lit0 t = true ∧ fle t lit100 = true

/-- What the invariants say of one `inst(ch, st)`. -/
structure InstSound (c : Cfg) (g : Engine) (I : Inst) : Prop where
  ring : RingSound g.cap I.dly
  tuned : g.prep = true → TunedFor c g I.flt
  primed : c.mixInit = .zero → I.mix.primed = true

/-- The invariants, those of the instances gathered. -/
structure Sound (s : State) : Prop where
  memory : MemorySound s
  engine : EngineInstalled s
  err : ErrLegal s
  inst : ∀ ch st, InstSound s.cfg s.eng (s.inst ch st)

theorem sound_iff (s : State) : Sound s ↔
    MemorySound s ∧ RingsSound s ∧ EngineInstalled s ∧ FiltersTuned s ∧ ErrLegal s ∧ MixPrimed s := by
  constructor
  · exact fun h => ⟨h.memory, fun ch st => (h.inst ch st).ring, h.engine,
      fun hprep ch st => (h.inst ch st).tuned hprep, h.err, fun hzero ch st => (h.inst ch st).primed hzero⟩
  · rintro ⟨memory, rings, engine, filters, err, mixes⟩
    exact ⟨memory, engine, err, fun ch st =>
      ⟨rings ch st, fun hprep => filters hprep ch st, fun hzero => mixes hzero ch st⟩⟩

/-- A state with the memory, engine state and configuration of a sound one is sound when its ERR and instances are. -/
theorem Sound.of_same {s t : State} (h : Sound s) (hcfg : t.cfg = s.cfg) (heng : t.eng = s.eng)
    (hmem : t.mem = s.mem) (herr : ErrLegal t) (hinst : ∀ ch st, InstSound s.cfg s.eng (t.inst ch st)) :
    Sound t where
  memory := by
    simp only [MemorySound, State.readByte, hcfg, hmem]
    exact h.memory
  engine := by
    simp only [EngineInstalled, hcfg, heng]
    exact h.engine
  err := herr
  inst := by rwa [hcfg, heng]

/-! ## Instances at their initial values -/

theorem ringSound_empty (cap : Nat) : RingSound cap ⟨[], 0⟩ :=
  ⟨rfl, fun _ _ => rfl, fun _ => .inr (show withinOne 0#32 = true by decide), by
    rcases Nat.eq_zero_or_pos cap with h | h
    · exact .inr ⟨h, rfl⟩
    · exact .inl h⟩

/-- The power-on values, whatever the noise source, are sound before PREPARE. -/
theorem instSound_powerOn (c : Cfg) (noise : Noise) :
    InstSound c Engine.powerOn { Inst.powerOn with noise := noise } where
  ring := ringSound_empty 0
  tuned h := by cases h
  primed _ := rfl

/-- CLEAR leaves sound history: the ring empty, the tone unset, the mix primed unless MIX_INIT is snap. -/
theorem instSound_clearInst {c : Cfg} {g : Engine} {I : Inst}
    (haa : g.prep = true → I.flt.aa = lowpass c g.fs dbl5000) : InstSound c g (clearInst c I) where
  ring := ringSound_empty g.cap
  tuned hprep := ⟨haa hprep, fun _ h => by cases h⟩
  primed hzero := decide_eq_true hzero

theorem instSound_prepareInst (c : Cfg) (g : Engine) (I : Inst) :
    InstSound c g (prepareInst c (lowpass c g.fs dbl5000) I) where
  ring := ringSound_empty g.cap
  tuned _ := ⟨rfl, fun _ h => by cases h⟩
  primed hzero := decide_eq_true hzero

/-! ## Parameters within their ranges -/

theorem fclamp_mem (v lo hi : F32) : fclamp v lo hi = lo ∨ fclamp v lo hi = hi ∨ fclamp v lo hi = v := by
  unfold fclamp
  split_ifs <;> simp

/-- A value that is no NaN is clamped into its bounds (R11). -/
theorem fclamp_between {v lo hi : F32} (hv : isNaN32 v = false) (hlo : isNaN32 lo = false)
    (hhi : isNaN32 hi = false) (horder : fle lo hi = true) :
    fle lo (fclamp v lo hi) = true ∧ fle (fclamp v lo hi) hi = true := by
  have hself : ∀ {x}, isNaN32 x = false → fle x x = true := fun hx => (fle_eq_true_iff hx hx).mpr le_rfl
  cases hbelow : flt v lo
  · have hle : fle lo v = true := by
      rw [fle_eq_true_iff hlo hv, ← not_lt, ← flt_eq_true_iff hv hlo, hbelow]; simp
    cases habove : flt hi v
    · rw [fclamp_inside hbelow habove]
      refine ⟨hle, ?_⟩
      rw [fle_eq_true_iff hv hhi, ← not_lt, ← flt_eq_true_iff hhi hv, habove]; simp
    · rw [fclamp_above hbelow habove]
      exact ⟨horder, hself hhi⟩
  · rw [fclamp_below hbelow]
    exact ⟨hself hlo, horder⟩

/-- A parameter is read as a NaN only from a register that holds one (R110, R111). -/
theorem isNaN32_paramRead {s : State} {st : Stage} {p : Param} (h : isNaN32 (s.paramReg st p) = false) :
    isNaN32 (s.paramRead st p) = false := by
  rcases fclamp_mem (s.paramReg st p) (paramLo p) (paramHi p) with hread | hread | hread <;>
    rw [State.paramRead, hread]
  · cases p <;> decide
  · cases p <;> decide
  · exact h

/-! ## The units of a stage -/

section
variable {c : Cfg} {g : Engine}

/-- One element written at the write index, which advances around the ring (R136). -/
theorem RingSound.store {cap : Nat} {d : DelayLine} (h : RingSound cap d) (hcap : cap ≠ 0) {v : F32}
    (hv : isNaN32 v = true ∨ withinOne v = true) :
    RingSound cap ⟨cellSet d.ring d.w v, (d.w + 1) % cap⟩ := by
  obtain ⟨hwf, hbeyond, hbound, hw⟩ := h
  have hin : d.w < cap := hw.resolve_right fun h0 => hcap h0.1
  refine ⟨cellsWf_cellSet _ _ hwf, fun k hk => ?_, fun k => ?_, .inl (Nat.mod_lt _ (Nat.pos_of_ne_zero hcap))⟩
  · rw [cellGet_cellSet _ _ _ hwf, if_neg (by omega), hbeyond k hk]
  · rw [cellGet_cellSet _ _ _ hwf]
    split_ifs
    · exact hv
    · exact hbound k

theorem RingSound.delay {d : DelayLine} (h : RingSound g.cap d) (x delayMs fbPct : F32) :
    RingSound g.cap (delay c g d x delayMs fbPct).1 := by
  rcases delay_line c g d x delayMs fbPct with ⟨-, hsame⟩ | ⟨hcap, v, hv, hstore⟩
  · rwa [hsame]
  · rw [hstore]
    exact h.store hcap hv

/-- Tuning to a tone that is no NaN (R192, R195). -/
theorem TunedFor.retune {f : FilterPair} (h : TunedFor c g f) {tone : F32} (htone : isNaN32 tone = false) :
    TunedFor c g (retune c g (fclamp tone lit0 lit100) f) := by
  unfold Machine.retune
  split
  · refine ⟨h.1, fun t ht => ?_⟩
    obtain rfl := Option.some.inj ht
    exact ⟨rfl, fclamp_between htone (by decide) (by decide) (by decide)⟩
  · exact h

theorem TunedFor.filter {f : FilterPair} (h : TunedFor c g f) (x : F32) {tone : F32}
    (htone : isNaN32 tone = false) : TunedFor c g (filter c g x tone f).1 :=
  h.retune htone

variable {I : Inst} (h : InstSound c g I)
include h

theorem InstSound.compressF (x : F32) : InstSound c g (compressF c g x I).1 :=
  ⟨h.ring, h.tuned, h.primed⟩

theorem InstSound.expandF (x : F32) : InstSound c g (expandF c g x I).1 :=
  ⟨h.ring, h.tuned, h.primed⟩

theorem InstSound.bbdInst (ch : Channel) (st : Stage) (x delayMs : F32) :
    InstSound c g (bbdInst c ch st x delayMs I).1 :=
  ⟨h.ring, h.tuned, h.primed⟩

theorem InstSound.delayInst (x delayMs fbPct : F32) :
    InstSound c g (delayInst c g x delayMs fbPct I).1 :=
  ⟨h.ring.delay x delayMs fbPct, h.tuned, h.primed⟩

theorem InstSound.filterInst (x : F32) {tone : F32} (htone : isNaN32 tone = false) :
    InstSound c g (filterInst c g x tone I).1 :=
  ⟨h.ring, fun hprep => (h.tuned hprep).filter x htone, h.primed⟩

theorem InstSound.mixInst (dry wet mixPct : F32) : InstSound c g (mixInst c g dry wet mixPct I).1 :=
  ⟨h.ring, h.tuned, fun _ => rfl⟩

theorem InstSound.stage (ch : Channel) (st : Stage) (x : F32) {p : StageParams}
    (htone : isNaN32 p.tonePct = false) : InstSound c g (stage c g ch st x p I).1 :=
  (((((h.compressF x).delayInst _ _ _).bbdInst ch st _ _).expandF _).filterInst _ htone).mixInst _ _ _

end

/-! ## Instance commands and blocks -/

/-- The module function of a command keeps its `inst(ch, st)` sound when no parameter it uses is a NaN. -/
theorem instSound_moduleOf {ch : Channel} {st : Stage} {i : Instr} (hi : i ∈ instanceInstrs ch st)
    {s : State} (hnan : s.nanIn st ((usedParams i).map Prod.snd) = false) {I : Inst}
    (h : InstSound s.cfg s.eng I) : InstSound s.cfg s.eng (moduleOf s i I).1 := by
  revert hnan
  refine forall_instanceInstrs (P := fun i => s.nanIn st ((usedParams i).map Prod.snd) = false →
    InstSound s.cfg s.eng (moduleOf s i I).1) hi ?_ ?_ ?_ ?_ ?_ ?_ ?_ <;> intro hnan
  · exact h.stage ch st _ (isNaN32_paramRead (p := .tonePct) (by simp_all [State.nanIn, usedParams]))
  · exact h.compressF _
  · exact h.delayInst _ _ _
  · exact h.bbdInst ch st _ _
  · exact h.expandF _
  · exact h.filterInst _ (isNaN32_paramRead (p := .tonePct) (by simp_all [State.nanIn, usedParams]))
  · exact h.mixInst _ _ _

/-- The tones of the stages a block runs are no NaNs. -/
def BlockRun.TonesKnown (b : BlockRun) : Prop :=
  b.byp = false → isNaN32 b.p1.tonePct = false ∧ (b.casc = true → isNaN32 b.p2.tonePct = false)

theorem instSound_engineSample {c : Cfg} {g : Engine} {b : BlockRun} (hb : b.TonesKnown) (ch : Channel)
    (x : F32) {pair : Inst × Inst} (h : ∀ st, InstSound c g (ofStage pair st)) (st : Stage) :
    InstSound c g (ofStage (engineSample c g ch b x pair).1 st) := by
  have h1 : InstSound c g pair.1 := h .one
  have h2 : InstSound c g pair.2 := h .two
  unfold engineSample
  cases hbyp : b.byp
  · obtain ⟨htone1, htone2⟩ := hb hbyp
    cases hcasc : b.casc <;> cases st
    · exact h1.stage ch .one x htone1
    · exact h2
    · exact h1.stage ch .one x htone1
    · exact h2.stage ch .two _ (htone2 hcasc)
  · exact h st

/-- A buffer write stores nothing at a reserved offset (R62). -/
theorem memorySound_bufWrite {s : State} (h : MemorySound s) (ch : Channel) (i : Nat) (v : Word) :
    MemorySound (s.bufWrite ch i v) := by
  obtain ⟨hwf, hreserved⟩ := h
  refine ⟨bufWrite_wf s ch i v hwf, fun a ha => ?_⟩
  rw [State.bufWrite_cfg] at ha
  rcases Nat.lt_or_ge i s.cfg.bufWords with hin | hout
  · have hother : a < bufOffset ch i ∨ bufOffset ch i + 4 ≤ a := by
      rw [← Bool.not_eq_true, bufferByte, Bool.or_eq_true, Bool.and_eq_true, Bool.and_eq_true] at ha
      simp only [decide_eq_true_iff] at ha
      cases ch <;> simp only [bufOffset_left, bufOffset_right] <;> omega
    rw [readByte_bufWrite_other s ch i v a hwf hother, hreserved a ha]
  · rw [bufWrite_of_reserved s ch v hout, hreserved a ha]

theorem Sound.bufWrite {s : State} (h : Sound s) (ch : Channel) (i : Nat) (v : Word) :
    Sound (s.bufWrite ch i v) where
  memory := memorySound_bufWrite h.memory ch i v
  engine := by simpa [EngineInstalled] using h.engine
  err := by simpa [ErrLegal] using h.err
  inst := by simpa using h.inst

theorem Sound.putSample {s : State} (h : Sound s) {ch : Channel} {r : (Inst × Inst) × F32}
    (hr : ∀ st, InstSound s.cfg s.eng (ofStage r.1 st)) (i : Nat) : Sound (s.putSample ch i r) := by
  refine Sound.bufWrite (h.of_same (by simp) (by simp) (by simp) (by simpa [ErrLegal] using h.err) ?_) ch i r.2
  intro ch' st
  by_cases hch : ch' = ch
  · cases st
    · simpa [State.inst_setInst, hch] using hr .one
    · simpa [State.inst_setInst, hch] using hr .two
  · simpa [State.inst_setInst, hch] using h.inst ch' st

theorem Sound.controlArrivals {s : State} (h : Sound s) (k : Nat) : Sound (s.controlArrivals k) :=
  h.of_same rfl rfl rfl h.err (by simpa using h.inst)

theorem Sound.sampleStep {b : BlockRun} (hb : b.TonesKnown) {s : State} (h : Sound s) (ch : Channel)
    (i : Nat) : Sound (sampleStep b ch i s) := by
  rw [sampleStep_eq]
  exact (h.controlArrivals _).putSample (instSound_engineSample hb ch _ fun st => by
    cases st <;> exact h.inst ch _) i

theorem Sound.channelLoop {b : BlockRun} (hb : b.TonesKnown) (ch : Channel) (k i : Nat) {s : State}
    (h : Sound s) : Sound (channelLoop b ch k i s) :=
  channelLoop_keeps Sound b ch (fun j _ ht => ht.sampleStep hb ch j) k i s h

/-- An empty block has no effect (R240). -/
theorem blockProcessed_of_empty {s : State} (h : s.blockLen = 0#32) : s.blockProcessed = s := by
  rw [State.blockProcessed, show s.snapshot.n = 0 by rw [State.snapshot, h]; rfl]
  rfl

/-- The tones of a block that is not empty and passes the NaN test are known. -/
theorem tonesKnown_snapshot {s : State} (hnan : s.bypass = true ∨ s.blockNaN = false)
    (hlen : s.blockLen ≠ 0#32) : s.snapshot.TonesKnown := by
  intro hbyp
  have htest : s.blockNaN = false := hnan.resolve_left (by rw [show s.bypass = false from hbyp]; simp)
  rw [State.blockNaN, bne_iff_ne.mpr hlen, Bool.true_and, Bool.or_eq_false_iff, Bool.and_eq_false_iff] at htest
  obtain ⟨hone, htwo⟩ := htest
  have htone : ∀ st, s.nanIn st allParams = false → isNaN32 (s.params st).tonePct = false := fun st h =>
    isNaN32_paramRead (p := .tonePct) (by simp_all [State.nanIn, allParams])
  exact ⟨htone .one hone, fun hcasc => htone .two (htwo.resolve_left (by
    rw [show s.cascaded = true from hcasc]; simp))⟩

/-! ## Every command -/

theorem errLegal_raiseFault {s : State} (h : ErrLegal s) (code : FaultCode) : ErrLegal (raiseFault code s) := by
  rw [ErrLegal, raiseFault_err]
  split_ifs
  · cases code <;> decide
  · exact h

theorem Sound.raiseFault {s : State} (h : Sound s) (code : FaultCode) : Sound (raiseFault code s) :=
  h.of_same (by simp) (by simp) (by simp) (errLegal_raiseFault h.err code) (by simpa using h.inst)

theorem Sound.setResult {s : State} (h : Sound s) (v : F32) : Sound (s.setResult v) :=
  h.of_same rfl rfl rfl h.err (by simpa using h.inst)

theorem Sound.endCommand {s : State} (h : Sound s) : Sound s.endCommand :=
  h.of_same rfl rfl rfl h.err (by simpa using h.inst)

theorem Sound.blockProcessed {s : State} (h : Sound s) (hnan : s.bypass = true ∨ s.blockNaN = false) :
    Sound s.blockProcessed := by
  by_cases hlen : s.blockLen = 0#32
  · rwa [blockProcessed_of_empty hlen]
  · have htones := tonesKnown_snapshot hnan hlen
    exact (h.channelLoop htones .left _ _).channelLoop htones .right _ _

theorem Sound.sampled {s : State} (h : Sound s) {ch : Channel} {st : Stage} {i : Instr}
    (hi : i ∈ instanceInstrs ch st) (hnan : s.nanIn st ((usedParams i).map Prod.snd) = false) :
    Sound (s.sampled ch st i) := by
  refine h.of_same (by simp) (by simp) (by simp) (by simpa [ErrLegal] using h.err) fun ch' st' => ?_
  rw [State.inst_sampled]
  split_ifs
  · exact instSound_moduleOf hi hnan (h.inst ch st)
  · exact h.inst ch' st'

theorem Sound.prepared {s : State} (h : Sound s) (hrate : rateLegal s.cfg s.sampleRateOperand = true)
    (hsize : blockSizeLegal s.cfg s.a2 = true) : Sound s.prepared where
  memory := h.memory
  engine := .inr ⟨rfl, hrate, hsize, rfl⟩
  err := Nat.zero_le 5
  inst ch st := by
    rw [State.inst_prepared]
    exact instSound_prepareInst s.cfg s.prepared.eng _

theorem Sound.cleared {s : State} (h : Sound s) : Sound s.cleared :=
  h.of_same rfl rfl rfl (Nat.zero_le 5) fun ch st => by
    rw [State.inst_cleared]
    exact instSound_clearInst fun hprep => ((h.inst ch st).tuned hprep).1

/-- Every command keeps the machine sound. -/
theorem Sound.command {s t : State} {i : Instr} (h : Sound s) (heffect : CommandEffect s i t) : Sound t := by
  cases heffect with
  | fault _ => exact h.raiseFault _
  | prepare _ hrate hsize => exact h.prepared hrate hsize
  | reset => exact h.cleared
  | blockPassed _ => exact h
  | blockRun _ _ hnan => exact h.blockProcessed hnan
  | softclip => exact h.setResult _
  | passed _ _ => exact h.setResult _
  | sampled hi _ hnan => exact h.sampled hi hnan

/-! ## Every step -/

theorem Sound.windowWrite {s : State} (h : Sound s) (off : Nat) (v : Word) : Sound (s.windowWrite off v) := by
  rcases windowWrite_cases s off v with ⟨-, hwrite⟩ | ⟨-, ch, i, hwrite, -⟩ <;> rw [hwrite]
  · exact h.of_same (by simp) (by simp) (by simp) (by simpa [ErrLegal] using h.err) (by simpa using h.inst)
  · exact h.bufWrite ch i v

/-- The state of power-on is sound, whatever the noise sources. -/
theorem sound_powerOn {s : State} (hmem : s.mem = []) (heng : s.eng = Engine.powerOn) (herr : s.err = 0#4)
    (hinst : ∀ ch st, ∃ noise, s.inst ch st = { Inst.powerOn with noise := noise }) : Sound s where
  memory := by
    simp only [MemorySound, State.readByte, hmem]
    exact ⟨rfl, fun _ _ => rfl⟩
  engine := .inl ⟨by rw [heng]; rfl, heng⟩
  err := by rw [ErrLegal, herr]; exact Nat.zero_le 5
  inst ch st := by
    obtain ⟨noise, h⟩ := hinst ch st
    rw [heng, h]
    exact instSound_powerOn s.cfg noise

theorem sound_powerCycle (s : State) : Sound (powerCycle s) :=
  sound_powerOn rfl rfl rfl fun ch st => ⟨(s.inst ch st).noise, by cases ch <;> cases st <;> rfl⟩

/-- What stands outside the core has no part in soundness. -/
theorem Sound.outside {s : State} (h : Sound s) (host : List HostEvent) (reads : List Word) :
    Sound { s with host := host, reads := reads } :=
  h.of_same rfl rfl rfl h.err fun ch st => by
    rw [State.inst_outside]
    exact h.inst ch st

theorem Sound.step {s t : State} (h : Sound s) (hstep : step s = .next t) : Sound t := by
  have hrest : ∀ rest, Sound { s with host := rest } := fun rest => h.outside rest s.reads
  obtain ⟨-, ⟨-, rfl⟩ | ⟨addr, rest, -, -, rfl⟩ | ⟨addr, v, rest, -, -, -, rfl⟩ | ⟨w, e, rest, -, -, rfl⟩ |
    ⟨w, i, u, rest, -, -, hexec, rfl⟩ | ⟨rest, -, rfl⟩⟩ := step_next_cases hstep
  · exact h
  · exact h.outside rest _
  · exact (hrest rest).windowWrite _ v
  · exact ((hrest rest).raiseFault _).endCommand
  · exact ((hrest rest).command (.of_exec hexec)).endCommand
  · exact sound_powerCycle _

/-- Settles O60: each event keeps the machine sound, a command by each of its effects. -/
theorem invariantsKept : Obligations.InvariantsKept := by
  intro s t hstep
  rw [← sound_iff, ← sound_iff]
  exact fun h => h.step hstep

/-- Settles O59: reset is the power-on of the reference configuration. -/
theorem invariantsAtReset : Obligations.InvariantsAtReset :=
  (sound_iff State.reset).mp (sound_powerOn rfl rfl rfl fun ch st =>
    ⟨Inst.powerOn.noise, by cases ch <;> cases st <;> rfl⟩)

end Sys2Proof.Machine
end

section
/-! What a word on CMD decodes to, what every command and every event leaves alone, and what the core is after power-on (R21, R24, R26, R29, R40, R70, R91 to R96, R254, R272, R283). -/

namespace Sys2Proof.Machine

/-! ## Decoding inverted -/

theorem chBit_fieldCh (w : Word) : chBit (fieldCh w) = BitVec.ofBool (w.getLsbD 8) := by
  unfold fieldCh
  cases w.getLsbD 8 <;> rfl

theorem stBit_fieldSt (w : Word) : stBit (fieldSt w) = BitVec.ofBool (w.getLsbD 9) := by
  unfold fieldSt
  cases w.getLsbD 9 <;> rfl

/-- A word is made of its fields (R91). -/
theorem word_of_fields {w : Word} (hrsv : fieldRsv w = 0#22) :
    commandWord (fieldOpc w) (chBit (fieldCh w)) (stBit (fieldSt w)) = w := by
  rw [commandWord, ← hrsv, chBit_fieldCh, stBit_fieldSt]
  unfold fieldRsv fieldOpc
  apply BitVec.eq_of_getLsbD_eq
  intro i hi
  simp only [BitVec.getLsbD_append, BitVec.getLsbD_extractLsb', BitVec.getLsbD_ofBool]
  grind

/-- The opcode map gives each instruction its own opcode and, unless it is an engine command, its fields (R92, R93). -/
theorem encode_of_instrOfOpc {opc : BitVec 8} {ch : Channel} {st : Stage} {i : Instr}
    (h : instrOfOpc opc ch st = some i) :
    encode i = if i.isEngine then commandWord opc 0#1 0#1 else commandWord opc (chBit ch) (stBit st) := by
  simp only [instrOfOpc, ite_eq_iff, Option.some.injEq, reduceCtorEq, and_false, or_false] at h
  repeat
    rcases h with ⟨rfl, rfl⟩ | ⟨-, h⟩
    · rfl
  obtain ⟨rfl, rfl⟩ := h
  rfl

/-- A word that decodes is the encoding of what it decodes to (R94, R95). -/
theorem encode_of_decode {w : Word} {i : Instr} (h : decode w = .ok i) : encode i = w := by
  unfold decode at h
  cases hopc : instrOfOpc (fieldOpc w) (fieldCh w) (fieldSt w) with
  | none => rw [hopc] at h; cases h
  | some j =>
    rw [hopc] at h
    dsimp only at h
    split_ifs at h with hrsv hengine
    obtain rfl := Except.ok.inj h
    rw [not_not] at hrsv
    rw [encode_of_instrOfOpc hopc]
    split_ifs with hkind
    · rw [hkind, Bool.true_and, Bool.not_eq_true, bne_eq_false_iff_eq] at hengine
      have hbit : ∀ k < 2, w.getLsbD (8 + k) = false := fun k hk => by
        have := congrArg (BitVec.getLsbD · k) hengine
        simpa [fieldStCh, BitVec.getLsbD_extractLsb', hk] using this
      have hch : chBit (fieldCh w) = 0#1 := by rw [chBit_fieldCh, hbit 0 (by decide)]; rfl
      have hst : stBit (fieldSt w) = 0#1 := by rw [stBit_fieldSt, hbit 1 (by decide)]; rfl
      have hword := word_of_fields hrsv
      rwa [hch, hst] at hword
    · exact word_of_fields hrsv

/-! ## What commands leave alone -/

theorem instanceInstrs_ne {ch : Channel} {st : Stage} {i : Instr} (hi : i ∈ instanceInstrs ch st) :
    i ≠ .prepare ∧ i ≠ .reset ∧ i ≠ .processBlock ∧ i ≠ .softclip := by
  apply forall_instanceInstrs hi <;> simp

/-- Only PROCESS_BLOCK changes CTRL or memory. -/
theorem CommandEffect.ctrl_mem {s t : State} {i : Instr} (h : CommandEffect s i t) (hi : i ≠ .processBlock) :
    t.ctrl = s.ctrl ∧ t.control = s.control ∧ t.mem = s.mem := by
  cases h with
  | blockPassed _ | blockRun _ _ _ => exact absurd rfl hi
  | prepare _ _ _ | reset | softclip | passed _ _ => exact ⟨rfl, rfl, rfl⟩
  | fault _ | sampled _ _ _ => simp [State.sampled]

/-- What a command does to ERR. -/
theorem CommandEffect.err_cases {s t : State} {i : Instr} (h : CommandEffect s i t) :
    (∃ code, faultOf i s = some code ∧ t = raiseFault code s) ∨
    (t.err = 0#4 ∧ (i = .reset ∨ (i = .prepare ∧ faultOf .prepare s = none))) ∨
    (t.err = s.err ∧ i ≠ .prepare ∧ i ≠ .reset) := by
  cases h with
  | fault hfault => exact .inl ⟨_, hfault, rfl⟩
  | prepare hnone _ _ => exact .inr (.inl ⟨rfl, .inr ⟨rfl, hnone⟩⟩)
  | reset => exact .inr (.inl ⟨rfl, .inl rfl⟩)
  | blockPassed _ | softclip => simp
  | blockRun _ _ _ => simp
  | passed hi _ | sampled hi _ _ =>
    obtain ⟨hprepare, hreset, -, -⟩ := instanceInstrs_ne hi
    exact .inr (.inr ⟨by simp, hprepare, hreset⟩)

/-- Settles O18: without a fault condition the effect is not a fault, and an empty block is no change. -/
theorem noFaultWithoutItsCondition : Obligations.NoFaultWithoutItsCondition := by
  constructor
  · intro i s hnone
    obtain ⟨t, hexec, heffect⟩ := exec_effect i s
    refine ⟨t, hexec, ?_⟩
    rcases heffect.err_cases with ⟨code, hfault, -⟩ | ⟨herr, hi⟩ | ⟨herr, hprepare, hreset⟩
    · rw [hnone] at hfault; cases hfault
    · rw [herr, if_pos (hi.symm.imp_left And.left)]
    · rw [herr, if_neg (not_or.mpr ⟨hprepare, hreset⟩)]
  · intro s hlen
    have hnone : faultOf .processBlock s = none := by
      rw [faultOf_processBlock, State.blockNaN, hlen]
      simp
    obtain ⟨t, hexec, heffect⟩ := exec_effect .processBlock s
    refine ⟨hnone, hexec.trans ?_⟩
    cases heffect with
    | fault hfault => rw [hnone] at hfault; cases hfault
    | blockPassed _ => rfl
    | blockRun _ _ _ => rw [blockProcessed_of_empty hlen]
    | passed hi _ | sampled hi _ _ => exact absurd rfl (instanceInstrs_ne hi).2.2.1

/-! ## The anti-alias coefficients and the engine state -/

theorem moduleOf_aa {ch : Channel} {st : Stage} {i : Instr} (hi : i ∈ instanceInstrs ch st) (s : State)
    (I : Inst) : (moduleOf s i I).1.flt.aa = I.flt.aa := by
  refine forall_instanceInstrs (P := fun i => (moduleOf s i I).1.flt.aa = I.flt.aa) hi ?_ rfl rfl rfl rfl ?_ rfl
  · exact stage_aa ..
  · exact filterInst_aa ..

theorem engineSample_aa (c : Cfg) (g : Engine) (ch : Channel) (b : BlockRun) (x : F32) (pair : Inst × Inst)
    (st : Stage) : (ofStage (engineSample c g ch b x pair).1 st).flt.aa = (ofStage pair st).flt.aa := by
  unfold engineSample
  cases b.byp <;> cases b.casc <;> cases st <;> simp [stage_aa]

theorem sampleStep_aa (b : BlockRun) (ch : Channel) (i : Nat) (s : State) (ch' : Channel) (st : Stage) :
    ((sampleStep b ch i s).inst ch' st).flt.aa = (s.inst ch' st).flt.aa := by
  rw [inst_sampleStep]
  split_ifs with hch
  · rw [sampleResult, engineSample_aa, hch]
    cases st <;> rfl
  · rfl

theorem blockProcessed_aa (s : State) (ch : Channel) (st : Stage) :
    (s.blockProcessed.inst ch st).flt.aa = (s.inst ch st).flt.aa := by
  have hloop := fun ch' => channelLoop_field (fun t : State => (t.inst ch st).flt.aa) s.snapshot ch'
    fun i t => sampleStep_aa s.snapshot ch' i t ch st
  exact (hloop .right _ _ _).trans (hloop .left _ _ _)

/-- Two states with the same engine state and the same anti-alias coefficients (R254). -/
def SameEngine (s t : State) : Prop :=
  t.eng = s.eng ∧ ∀ ch st, (t.inst ch st).flt.aa = (s.inst ch st).flt.aa

/-- Every command but a PREPARE without fault keeps them. -/
theorem CommandEffect.sameEngine {s t : State} {i : Instr} (h : CommandEffect s i t) :
    (i = .prepare ∧ faultOf .prepare s = none) ∨ SameEngine s t := by
  cases h with
  | prepare hnone _ _ => exact .inl ⟨rfl, hnone⟩
  | fault _ | softclip | blockPassed _ | passed _ _ => exact .inr ⟨by simp, by simp⟩
  | reset => exact .inr ⟨rfl, fun ch st => by rw [State.inst_cleared]; rfl⟩
  | blockRun _ _ _ => exact .inr ⟨by simp, blockProcessed_aa s⟩
  | sampled hi _ _ =>
    refine .inr ⟨by simp, fun ch' st' => ?_⟩
    rw [State.inst_sampled]
    split_ifs with hown
    · obtain ⟨rfl, rfl⟩ := hown
      exact moduleOf_aa hi s _
    · rfl

/-! ## Steps -/

section
variable (s : State) (off : Nat) (v : Word)

theorem windowWrite_err : (s.windowWrite off v).err = s.err := by
  rcases windowWrite_cases s off v with ⟨-, h⟩ | ⟨-, ch, i, h, -⟩ <;> simp [h]
theorem windowWrite_cfg : (s.windowWrite off v).cfg = s.cfg := by
  rcases windowWrite_cases s off v with ⟨-, h⟩ | ⟨-, ch, i, h, -⟩ <;> simp [h]
theorem windowWrite_host : (s.windowWrite off v).host = s.host := by
  rcases windowWrite_cases s off v with ⟨-, h⟩ | ⟨-, ch, i, h, -⟩ <;> simp [h]
theorem windowWrite_sameEngine : SameEngine s (s.windowWrite off v) := by
  rcases windowWrite_cases s off v with ⟨-, h⟩ | ⟨-, ch, i, h, -⟩ <;> simp [h, SameEngine]

end

/-- Settles O19: a fault keeps an ERR that is not 0, and of the commands only RESET and a PREPARE without fault clear it. -/
theorem errIsSticky : Obligations.ErrIsSticky := by
  intro s t hstep herr
  obtain ⟨-, ⟨-, rfl⟩ | ⟨addr, rest, -, -, rfl⟩ | ⟨addr, v, rest, -, -, -, rfl⟩ | ⟨w, e, rest, -, -, rfl⟩ |
    ⟨w, i, u, rest, hhost, hdecode, hexec, rfl⟩ | ⟨rest, hhost, rfl⟩⟩ := step_next_cases hstep
  · exact .inl rfl
  · exact .inl rfl
  · exact .inl (windowWrite_err ..)
  · exact .inl (by rw [State.endCommand_err, raiseFault_err, if_neg herr])
  · rw [← encode_of_decode hdecode] at hhost
    rcases (CommandEffect.of_exec hexec).err_cases with ⟨code, -, rfl⟩ | ⟨hclear, rfl | ⟨rfl, hnone⟩⟩ | ⟨hkept, -⟩
    · exact .inl (by rw [State.endCommand_err, raiseFault_err, if_neg herr])
    · exact .inr ⟨hclear, rest, .inr (.inl hhost)⟩
    · exact .inr ⟨hclear, rest, .inr (.inr ⟨hhost, hnone⟩)⟩
    · exact .inl hkept
  · exact .inr ⟨rfl, rest, .inl hhost⟩

/-- Settles O20: every other event keeps the engine state and the coefficients. -/
theorem engineChangesOnlyByPrepare : Obligations.EngineChangesOnlyByPrepare := by
  intro s t hstep hchange
  have hdiffers : ¬ SameEngine s t := by
    rintro ⟨heng, haa⟩
    rcases hchange with h | ⟨ch, st, h⟩
    · exact h heng
    · exact h (haa ch st)
  have hrest : ∀ (host : List HostEvent) (reads : List Word) (u : State),
      SameEngine { s with host := host, reads := reads } u → SameEngine s u := fun host reads u h =>
    ⟨h.1, fun ch st => by rw [h.2, State.inst_outside]⟩
  obtain ⟨-, ⟨-, rfl⟩ | ⟨addr, rest, -, -, rfl⟩ | ⟨addr, v, rest, -, -, -, rfl⟩ | ⟨w, e, rest, -, -, rfl⟩ |
    ⟨w, i, u, rest, hhost, hdecode, hexec, rfl⟩ | ⟨rest, hhost, rfl⟩⟩ := step_next_cases hstep
  · exact absurd ⟨rfl, fun _ _ => rfl⟩ hdiffers
  · exact absurd (hrest rest _ _ ⟨rfl, fun _ _ => rfl⟩) hdiffers
  · exact absurd (hrest rest s.reads _ (windowWrite_sameEngine ..)) hdiffers
  · exact absurd (hrest rest s.reads _ ⟨by simp, by simp⟩) hdiffers
  · rw [← encode_of_decode hdecode] at hhost
    rcases (CommandEffect.of_exec hexec).sameEngine with ⟨rfl, hnone⟩ | ⟨heng, haa⟩
    · exact ⟨rest, .inr ⟨hhost, hnone⟩⟩
    · exact absurd (hrest rest s.reads _ ⟨heng, by simpa using haa⟩) hdiffers
  · exact ⟨rest, .inl hhost⟩

/-- No command writes the configuration, the operands, the parameters, BLOCK_LEN or what stands outside the core. -/
theorem CommandEffect.operands {s t : State} {i : Instr} (h : CommandEffect s i t) :
    t.cfg = s.cfg ∧ t.blockLen = s.blockLen ∧ t.s1 = s.s1 ∧ t.s2 = s.s2 ∧
    t.a0 = s.a0 ∧ t.a1 = s.a1 ∧ t.a2 = s.a2 ∧ t.a3 = s.a3 ∧ t.a4 = s.a4 ∧ t.a5 = s.a5 ∧
    t.host = s.host ∧ t.reads = s.reads := by
  cases h with
  | fault _ => simp
  | prepare _ _ _ | reset | softclip | blockPassed _ | passed _ _ =>
    exact ⟨rfl, rfl, rfl, rfl, rfl, rfl, rfl, rfl, rfl, rfl, rfl, rfl⟩
  | blockRun _ _ _ => simp [State.blockProcessed]
  | sampled _ _ _ => simp [State.sampled]

/-- Only PREPARE writes the engine state. -/
theorem CommandEffect.eng_of_ne {s t : State} {i : Instr} (h : CommandEffect s i t) (hi : i ≠ .prepare) :
    t.eng = s.eng := by
  rcases h.sameEngine with ⟨rfl, -⟩ | ⟨heng, -⟩
  · exact absurd rfl hi
  · exact heng

/-- The lifecycle commands and PROCESS_BLOCK write no RESULT. -/
theorem CommandEffect.result_of_engine {s t : State} {i : Instr} (h : CommandEffect s i t)
    (hi : i = .prepare ∨ i = .reset ∨ i = .processBlock) : t.result = s.result := by
  cases h with
  | fault _ => simp
  | prepare _ _ _ | reset | blockPassed _ => rfl
  | blockRun _ _ _ => simp [State.blockProcessed]
  | softclip => simp at hi
  | passed hinst _ | sampled hinst _ _ =>
    obtain ⟨hprepare, hreset, hblock, -⟩ := instanceInstrs_ne hinst
    rcases hi with h | h | h
    · exact absurd h hprepare
    · exact absurd h hreset
    · exact absurd h hblock

/-- A block writes no byte outside itself. -/
theorem CommandEffect.readByte_of_block {s t : State} (h : CommandEffect s .processBlock t)
    (hwf : Memory.wf s.mem = true) {a : Nat} (ha : ¬ inBlock s.blockLen.toNat a) :
    t.readByte a = s.readByte a := by
  cases h with
  | fault _ => rw [State.readByte, raiseFault_mem, State.readByte]
  | blockPassed _ => rfl
  | blockRun _ _ _ => exact readByte_blockProcessed hwf ha
  | passed hi _ | sampled hi _ _ => exact absurd rfl (instanceInstrs_ne hi).2.2.1

/-- SOFTCLIP touches none of the instances. -/
theorem CommandEffect.inst_of_softclip {s t : State} (h : CommandEffect s .softclip t) (ch : Channel)
    (st : Stage) : t.inst ch st = s.inst ch st := by
  cases h with
  | fault _ | softclip => simp
  | passed hi _ | sampled hi _ _ => exact absurd rfl (instanceInstrs_ne hi).2.2.2

/-- Settles O23: the frame of every effect. -/
theorem commandFrame : Obligations.CommandFrame := by
  intro i s t hexec
  have h := CommandEffect.of_exec hexec
  obtain ⟨hcfg, hlen, hs1, hs2, ha0, ha1, ha2, ha3, ha4, ha5, hhost, hreads⟩ := h.operands
  refine ⟨hcfg, hlen, hs1, hs2, ha0, ha1, ha2, ha3, ha4, ha5, hhost, hreads, h.eng_of_ne, h.result_of_engine,
    fun hi => ?_, ?_, ?_⟩
  · obtain ⟨hctrl, hcontrol, hmem⟩ := h.ctrl_mem hi
    exact ⟨hctrl, hcontrol, fun a => by rw [State.readByte, hmem, State.readByte]⟩
  · rintro rfl hwf a ha
    exact h.readByte_of_block hwf ha
  · rintro rfl
    exact h.inst_of_softclip

/-! ## Every admitted event is served -/

theorem command_served (w : Word) (s : State) :
    ∃ t, command w s = .next t ∧ t.host = s.host ∧ t.cfg = s.cfg := by
  unfold command
  cases decode w with
  | error e => exact ⟨_, rfl, by simp, by simp⟩
  | ok i =>
    obtain ⟨u, hexec, heffect⟩ := exec_effect i s
    obtain ⟨hcfg, -, -, -, -, -, -, -, -, -, hhost, -⟩ := heffect.operands
    exact ⟨u.endCommand, by simp only [hexec], hhost, hcfg⟩

/-- A 32-bit aligned access inside the window has a next state. -/
theorem hostAccess_served {addr : Nat} {s : State} (hin : inWindow s.cfg addr = true)
    (halign : (addr - s.cfg.base) % 4 = 0) (v : Option Word) :
    ∃ t, hostAccess addr 4 v s = .next t ∧ t.host = s.host ∧ t.cfg = s.cfg := by
  have hadmitted : accessAdmitted 4 (addr - s.cfg.base) = true := by simp [accessAdmitted, halign]
  unfold hostAccess
  rw [hin, hadmitted]
  cases v with
  | none => exact ⟨_, rfl, rfl, rfl⟩
  | some w =>
    by_cases hcmd : addr = s.cfg.base
    · simpa [hcmd] using command_served w s
    · exact ⟨s.windowWrite (addr - s.cfg.base) w, by simp [hcmd], windowWrite_host .., windowWrite_cfg ..⟩

/-- Settles O22: an admitted access has a next state, and so has a loss of power. -/
theorem admittedEventsAreServed : Obligations.AdmittedEventsAreServed := by
  intro s e rest hlegal hhost hevent
  rw [step_of_legal hlegal hhost]
  rcases hevent with rfl | ⟨addr, hin, halign, rfl | ⟨v, rfl⟩⟩
  · exact ⟨_, rfl, rfl, rfl⟩
  · exact hostAccess_served (s := { s with host := rest }) hin halign none
  · exact hostAccess_served (s := { s with host := rest }) hin halign (some v)

/-! ## Idle, power loss, power-on -/

/-- Settles O15: an idle step changes nothing, and a loss of power gives the values of R40. -/
theorem idleAndPowerLoss : Obligations.IdleAndPowerLoss := by
  constructor
  · intro s hlegal hhost
    rw [step, stepHost, hlegal, hhost]
    rfl
  · intro s rest hlegal hhost
    rw [step_of_legal hlegal hhost]
    exact ⟨_, rfl, rfl, rfl, rfl, rfl, rfl, rfl, rfl, rfl, rfl, fun ch st => by cases ch <;> cases st <;> rfl⟩

/-- Settles O16: each value is that of the table of R40. -/
theorem powerOnValues : Obligations.PowerOnValues :=
  ⟨rfl, rfl, rfl, fun st => by cases st <;> rfl, rfl, fun ch st => by
    have hinst : State.reset.inst ch st = Inst.powerOn := by cases ch <;> cases st <;> rfl
    rw [hinst]
    exact ⟨rfl, rfl, rfl, rfl, rfl⟩⟩

/-! ## What a command on one `inst(ch, st)` reads -/

/-- Parameters are read from the registers of their own stage. -/
theorem paramRead_congr {s s' : State} {st : Stage} (h : s.stageRegs st = s'.stageRegs st) (p : Param) :
    s.paramRead st p = s'.paramRead st p := by
  rw [State.paramRead, State.paramReg, h, ← State.paramReg, ← State.paramRead]

theorem nanIn_congr {s s' : State} {st : Stage} (h : s.stageRegs st = s'.stageRegs st) (used : List Param) :
    s.nanIn st used = s'.nanIn st used := by
  unfold State.nanIn State.paramReg
  rw [h]

/-- The module function depends on the configuration, the engine state, the stage's parameters and the operands only. -/
theorem moduleOf_congr {ch : Channel} {st : Stage} {i : Instr} (hi : i ∈ instanceInstrs ch st) {s s' : State}
    (hcfg : s.cfg = s'.cfg) (heng : s.eng = s'.eng) (hregs : s.stageRegs st = s'.stageRegs st)
    (ha0 : s.a0 = s'.a0) (ha1 : i = .mixSample ch st → s.a1 = s'.a1) : moduleOf s i = moduleOf s' i := by
  have hread := paramRead_congr hregs
  revert ha1
  refine forall_instanceInstrs (P := fun i => (i = .mixSample ch st → s.a1 = s'.a1) →
    moduleOf s i = moduleOf s' i) hi ?_ ?_ ?_ ?_ ?_ ?_ ?_ <;> intro ha1 <;>
    simp only [moduleOf, State.params, hcfg, heng, ha0, hread]
  rw [ha1 rfl]

/-- Settles O25: the frame reads `inst(ch, st)`, A0 and PREPARED, the module function the rest. -/
theorem instanceCommandsReadTheirOwn : Obligations.InstanceCommandsReadTheirOwn := by
  intro ch st i hi s s' t t' hcfg heng hregs ha0 ha1 hinst hnone hexec hexec'
  have hmodule := moduleOf_congr hi hcfg heng hregs ha0 ha1
  have hnan := nanIn_congr hregs ((usedParams i).map Prod.snd)
  rw [faultOf_instanceInstr hi] at hnone
  rw [exec_eq_instanceCommand hi] at hexec hexec'
  obtain rfl := Host.Outcome.next.inj hexec
  obtain rfl := Host.Outcome.next.inj hexec'
  unfold instanceCommand
  rw [← heng, ← hnan, ← hmodule, ← hinst, ← ha0]
  cases hprep : s.eng.prep
  · simp [hinst]
  · cases hparam : s.nanIn st ((usedParams i).map Prod.snd)
    · simp
    · rw [hprep, hparam] at hnone; cases hnone

end Sys2Proof.Machine
end

section
/-! Bounds that survive rounding with FTZ either way, and the envelope follower (R9, R32, R150). -/

namespace Sys2Proof.Machine

/-! ## Roundings keep bounds -/

/-- A finite value lies below the overflow threshold (R9). -/
theorem abs_value32_lt_overflow {x : F32} (h : isFinite32 x = true) : |value32 x| < 2 ^ 128 - 2 ^ 103 := by
  have hthreshold : (2 : ℚ) ^ 128 - 2 ^ 103 = binary32.overflow := by decide +kernel
  have hle : binary32.units (unpack32 x).mag ≤ binary32.units (binary32.infMag - 1) :=
    binary32_regular.units_strictMono.monotone (Nat.le_sub_one_of_lt ((isFinite32_iff x).mp h))
  have hlt : binary32.units (binary32.infMag - 1) < binary32.units binary32.infMag :=
    binary32_regular.units_strictMono (by decide)
  rw [hthreshold, value32_eq, FloatFormat.abs_signedValue, FloatFormat.overflow,
    div_lt_div_iff_of_pos_right (by positivity)]
  have hle' : (binary32.units (unpack32 x).mag : ℚ) ≤ binary32.units (binary32.infMag - 1) := by
    exact_mod_cast hle
  have hlt' : (binary32.units (binary32.infMag - 1) : ℚ) < binary32.units binary32.infMag := by
    exact_mod_cast hlt
  linarith

/-- Nothing within a finite value overflows. -/
theorem Rounds32.isFinite32 {q : ℚ} {r z : F32} (h : Rounds32 q r) (hz : isFinite32 z = true)
    (hq : |q| ≤ |value32 z|) : isFinite32 r = true := by
  rcases h with ⟨hr, -⟩ | ⟨-, hover, -⟩
  · exact hr
  · exact absurd (hq.trans_lt (abs_value32_lt_overflow hz)) hover.not_gt

/-- A finite rounding does not fall below a value that is not above the exact result. -/
theorem Rounds32.le_value32 {q : ℚ} {r z : F32} (h : Rounds32 q r) (hr : Machine.isFinite32 r = true)
    (hz : Machine.isFinite32 z = true) (hle : value32 z ≤ q) : value32 z ≤ value32 r := by
  rcases h with ⟨-, -, nearest, -⟩ | ⟨hinf, -⟩
  · by_contra! hlt
    have := nearest z hz
    rw [abs_of_nonneg (by linarith), abs_of_nonneg (by linarith)] at this
    linarith
  · rw [isFinite32_iff] at hr
    rw [isInf32_iff] at hinf
    omega

/-- `r` is the binary32 rounding of `q`, or what FTZ makes of it. -/
def Rounds32Ftz (q : ℚ) (r : F32) : Prop := ∃ r', Rounds32 q r' ∧ (r = r' ∨ r = flushed r')

theorem isFinite32_flushed {x : F32} (h : isFinite32 x = true) : isFinite32 (flushed x) = true := by
  rw [isFinite32_iff] at h ⊢
  rw [unpack32_flushed, flushedMag]
  split_ifs
  · exact binary32_regular.infMag_pos
  · exact h

theorem value32_flushed (x : F32) : value32 (flushed x) = value32 x ∨ value32 (flushed x) = 0 := by
  rw [value32_eq, value32_eq, unpack32_flushed, flushedMag]
  split_ifs
  · exact .inr (binary32_regular.signedValue_eq_zero.mpr rfl)
  · exact .inl rfl

theorem Rounds32Ftz.isFinite32 {q : ℚ} {r z : F32} (h : Rounds32Ftz q r)
    (hz : Machine.isFinite32 z = true) (hq : |q| ≤ |value32 z|) : Machine.isFinite32 r = true := by
  obtain ⟨r', hround, rfl | rfl⟩ := h
  · exact hround.isFinite32 hz hq
  · exact isFinite32_flushed (hround.isFinite32 hz hq)

/-- FTZ cannot take a finite result below a value that is neither above the exact result nor above zero. -/
theorem Rounds32Ftz.le_value32 {q : ℚ} {r z w : F32} (h : Rounds32Ftz q r)
    (hw : Machine.isFinite32 w = true) (hq : |q| ≤ |value32 w|) (hz : Machine.isFinite32 z = true)
    (hle : value32 z ≤ q) (hneg : value32 z ≤ 0) : value32 z ≤ value32 r := by
  obtain ⟨r', hround, rfl | rfl⟩ := h
  · exact hround.le_value32 (hround.isFinite32 hw hq) hz hle
  · rcases value32_flushed r' with hkeep | hzero
    · rw [hkeep]
      exact hround.le_value32 (hround.isFinite32 hw hq) hz hle
    · rwa [hzero]

theorem value32_lit0 : value32 lit0 = 0 := by
  rw [value32_eq]
  exact binary32_regular.signedValue_eq_zero.mpr rfl

/-- An exact result that is not negative is rounded to no NaN and nothing negative, an overflow included. -/
theorem Rounds32.fle_lit0 {q : ℚ} {r : F32} (h : Rounds32 q r) (hq : 0 ≤ q) : fle lit0 r = true := by
  have hfin0 : Machine.isFinite32 lit0 = true := by decide
  by_cases hr : Machine.isFinite32 r = true
  · rw [fle_iff_value32 hfin0 hr]
    exact h.le_value32 hr hfin0 (by rwa [value32_lit0])
  · obtain ⟨hinf, -, hsign⟩ := h.resolve_left fun h => hr h.1
    rw [decide_eq_false hq.not_gt] at hsign
    rw [fle_eq_true_iff (by decide) (isNaN32_of_isInf32 hinf), SignMag.key, SignMag.key, unpack32_neg r, hsign]
    exact Int.natCast_nonneg _

theorem fle_lit0_flushed {x : F32} (h : fle lit0 x = true) : fle lit0 (flushed x) = true := by
  have hfin0 : Machine.isFinite32 lit0 = true := by decide
  cases hsub : isSubnormal32 x
  · rwa [flushed, hsub]
  · have hbelow : binary32.hidden < binary32.infMag := by decide
    have hfin : Machine.isFinite32 x = true :=
      (isFinite32_iff x).mpr (((isSubnormal32_iff x).mp hsub).2.trans hbelow)
    rw [fle_iff_value32 hfin0 hfin] at h
    rw [fle_iff_value32 hfin0 (isFinite32_flushed hfin)]
    rcases value32_flushed x with hkeep | hzero
    · rwa [hkeep]
    · rw [hzero, value32_lit0]

theorem Rounds32Ftz.fle_lit0 {q : ℚ} {r : F32} (h : Rounds32Ftz q r) (hq : 0 ≤ q) : fle lit0 r = true := by
  obtain ⟨r', hround, rfl | rfl⟩ := h
  · exact hround.fle_lit0 hq
  · exact fle_lit0_flushed (hround.fle_lit0 hq)

section
variable (c : Cfg) {a b : F32} (ha : isFinite32 a = true) (hb : isFinite32 b = true)
include ha hb

theorem fadd_rounds : Rounds32Ftz (value32 a + value32 b) (fadd c a b) := by
  have hround := (fadd_finite (c := keepingSubnormals c) rfl ha hb).1
  cases hftz : c.ftz
  · exact ⟨_, (fadd_finite hftz ha hb).1, .inl rfl⟩
  · exact ⟨_, hround, .inr (result32_eq_flushed hftz _ _ _ (binary32.addSM_mag_le _ _))⟩

theorem fsub_rounds : Rounds32Ftz (value32 a - value32 b) (fsub c a b) := by
  have hround := (fsub_finite (c := keepingSubnormals c) rfl ha hb).1
  cases hftz : c.ftz
  · exact ⟨_, (fsub_finite hftz ha hb).1, .inl rfl⟩
  · exact ⟨_, hround, .inr (result32_eq_flushed hftz _ _ _ (binary32.addSM_mag_le _ _))⟩

theorem fmul_rounds : Rounds32Ftz (value32 a * value32 b) (fmul c a b) := by
  have hround := (fmul_finite (c := keepingSubnormals c) rfl ha hb).1
  cases hftz : c.ftz
  · exact ⟨_, (fmul_finite hftz ha hb).1, .inl rfl⟩
  · exact ⟨_, hround, .inr (result32_eq_flushed hftz _ _ _ (binary32.mulSM_mag_le _ _))⟩

end

/-! ## The envelope follower -/

/-- `abs` of a finite value is finite and not negative. -/
theorem fabs_finite (c : Cfg) {x : F32} (h : isFinite32 x = true) :
    isFinite32 (fabs c x) = true ∧ 0 ≤ value32 (fabs c x) := by
  have hfin : isFinite32 (clearSign x) = true := by
    rw [isFinite32_iff, unpack32_clearSign]
    exact (isFinite32_iff x).mp h
  have hpos : 0 ≤ value32 (clearSign x) := by
    rw [value32_eq, unpack32_clearSign, FloatFormat.signedValue, signFactor_false, one_mul]
    positivity
  cases hftz : c.ftz
  · rw [fabs_of_ftz_false hftz]
    exact ⟨hfin, hpos⟩
  · rw [fabs, flush32_of_ftz hftz]
    refine ⟨isFinite32_flushed hfin, ?_⟩
    rcases value32_flushed (clearSign x) with hkeep | hzero
    · rwa [hkeep]
    · rw [hzero]

/-- A step of a coefficient in [0, 1] from a value that is not negative towards another such value stays there: the difference, its product and the sum are each rounded to nothing below minus the value. -/
theorem follower_nonneg (c : Cfg) {k env level : F32} (hk : isFinite32 k = true) (hk0 : 0 ≤ value32 k)
    (hk1 : value32 k ≤ 1) (henv : isFinite32 env = true) (henv0 : 0 ≤ value32 env)
    (hlevel : isFinite32 level = true) (hlevel0 : 0 ≤ value32 level) :
    fle lit0 (fadd c env (fmul c k (fsub c level env))) = true := by
  have hflip : isFinite32 (flipSign env) = true := by
    rw [isFinite32_iff, unpack32_flipSign]
    exact (isFinite32_iff env).mp henv
  have hsub := fsub_rounds c hlevel henv
  have hbound : ∃ w, isFinite32 w = true ∧ |value32 level - value32 env| ≤ |value32 w| := by
    rcases le_total (value32 level) (value32 env) with h | h
    · refine ⟨env, henv, ?_⟩
      rw [abs_of_nonpos (by linarith), abs_of_nonneg henv0]
      linarith
    · refine ⟨level, hlevel, ?_⟩
      rw [abs_of_nonneg (by linarith), abs_of_nonneg hlevel0]
      linarith
  obtain ⟨w, hw, hdiff⟩ := hbound
  have hsubfin := hsub.isFinite32 hw hdiff
  have hsubge : -value32 env ≤ value32 (fsub c level env) := by
    rw [← value32_flipSign]
    apply hsub.le_value32 hw hdiff hflip <;> rw [value32_flipSign] <;> linarith
  generalize fsub c level env = d at hsubfin hsubge
  have hmul := fmul_rounds c hk hsubfin
  have hproduct : |value32 k * value32 d| ≤ |value32 d| := by
    rw [abs_mul, abs_of_nonneg hk0]
    exact mul_le_of_le_one_left (abs_nonneg _) hk1
  have hmulfin := hmul.isFinite32 hsubfin hproduct
  have hmulge : -value32 env ≤ value32 (fmul c k d) := by
    rw [← value32_flipSign]
    apply hmul.le_value32 hsubfin hproduct hflip <;> rw [value32_flipSign]
    · nlinarith
    · linarith
  exact (fadd_rounds c henv hmulfin).fle_lit0 (by linarith)

/-- Settles O57: both branches of the follower are such a step. -/
theorem envelopesStayNonNegative : Obligations.EnvelopesStayNonNegative := by
  intro c g env x hatt hatt0 hatt1 hrel hrel0 hrel1 henv henv0 hx
  obtain ⟨hlevel, hlevel0⟩ := fabs_finite c hx
  unfold envelope
  split_ifs
  · exact follower_nonneg c hatt hatt0 hatt1 henv henv0 hlevel hlevel0
  · exact follower_nonneg c hrel hrel0 hrel1 henv henv0 hlevel hlevel0

end Sys2Proof.Machine
end

section
/-! Zeros and ones in the arithmetic, and the mix whose ratio stays at +0.0 (R210 to R214, R242). -/

namespace Sys2Proof.Machine

/-! ## Zeros on signs and magnitudes -/

section
variable {f : FloatFormat} (hf : f.Regular) {x y : SignMag}
include hf

theorem FloatFormat.Regular.addSM_zeros (hx : x.mag = 0) (hy : y.mag = 0) :
    f.addSM x y = some ⟨x.neg && y.neg, 0⟩ := by
  have hinf := hf.infMag_pos.ne
  unfold FloatFormat.addSM
  cases x.neg <;> cases y.neg <;> simp [hx, hy, hinf, hf, f.roundUnits_zero]

/-- A value that is no zero keeps its bits when a zero is added. -/
theorem FloatFormat.Regular.addSM_zero_right (hx : x.mag ≤ f.infMag) (hne : x.mag ≠ 0) (hy : y.mag = 0) :
    f.addSM x y = some x := by
  obtain ⟨k, hk⟩ := hf.hidden_eq
  have hpos := hf.infMag_pos
  rcases hx.eq_or_lt with hinf | hfin
  · exact FloatFormat.addSM_inf_left hinf (by omega) fun h => absurd (hy.symm.trans h) hpos.ne
  · have hunits : f.units x.mag ≠ 0 := by simpa [hf] using hne
    have hround : f.roundUnits (f.units x.mag) 1 = x.mag := by
      simpa using f.roundUnits_units hk one_pos hx
    unfold FloatFormat.addSM
    simp only [hy, hx.not_gt, hpos.not_gt, hfin.ne, hpos.ne, hf.units_zero, hunits, hround,
      Nat.pos_of_ne_zero hunits, decide_false, Bool.or_self, Bool.false_eq_true, if_false, if_true,
      Nat.add_zero, Nat.sub_zero, ite_self]

theorem FloatFormat.Regular.mulSM_zero_right (hx : x.mag < f.infMag) (hy : y.mag = 0) :
    f.mulSM x y = some ⟨x.neg != y.neg, 0⟩ := by
  simp [FloatFormat.mulSM, hx.not_gt, hx.ne, hy, hf.infMag_pos.ne, hf, f.roundUnits_zero]

theorem FloatFormat.Regular.mulSM_zero_left (hx : x.mag = 0) (hy : y.mag < f.infMag) :
    f.mulSM x y = some ⟨x.neg != y.neg, 0⟩ := by
  simp [FloatFormat.mulSM, hy.not_gt, hy.ne, hx, hf.infMag_pos.ne, hf, f.roundUnits_zero]

theorem FloatFormat.Regular.divSM_zero_left (hx : x.mag = 0) (hy : y.mag < f.infMag) (hne : y.mag ≠ 0) :
    f.divSM x y = some ⟨x.neg != y.neg, 0⟩ := by
  simp [FloatFormat.divSM, hy.not_gt, hy.ne, hx, hne, hf.infMag_pos.ne, hf, f.roundUnits_zero]

end

/-! ## Operations on zeros -/

theorem eq_lit0_of_isZero32 {x : F32} (h : isZero32 x = true) (hsign : x.msb = false) : x = lit0 := by
  apply unpack32_injective
  rw [isZero32_iff] at h
  rw [unpack32, ← unpack32_mag, h, hsign]
  rfl

section
variable (c : Cfg) {a b : F32}

/-- Two zeros add to the zero that is negative when both are (R9). -/
theorem fadd_zeros (ha : isZero32 a = true) (hb : isZero32 b = true) :
    isZero32 (fadd c a b) = true ∧ (fadd c a b).msb = (a.msb && b.msb) := by
  rw [fadd, binary32_regular.addSM_zeros ((isZero32_iff a).mp ha) ((isZero32_iff b).mp hb)]
  exact result32_zero ..

theorem fsub_zeros (ha : isZero32 a = true) (hb : isZero32 b = true) :
    isZero32 (fsub c a b) = true ∧ (fsub c a b).msb = (a.msb && !b.msb) := by
  have hflip : isZero32 (flipSign b) = true := by rwa [isZero32_flipSign]
  rw [fsub, binary32_regular.addSM_zeros ((isZero32_iff a).mp ha) ((isZero32_iff _).mp hflip),
    unpack32_flipSign]
  exact result32_zero ..

/-- A finite value times a zero is a zero under the exclusive-or of the signs. -/
theorem fmul_zero (ha : isFinite32 a = true) (hb : isZero32 b = true) :
    isZero32 (fmul c a b) = true ∧ (fmul c a b).msb = (a.msb != b.msb) := by
  rw [fmul, binary32_regular.mulSM_zero_right ((isFinite32_iff a).mp ha) ((isZero32_iff b).mp hb)]
  exact result32_zero ..

theorem zero_fmul (ha : isZero32 a = true) (hb : isFinite32 b = true) :
    isZero32 (fmul c a b) = true ∧ (fmul c a b).msb = (a.msb != b.msb) := by
  rw [fmul, binary32_regular.mulSM_zero_left ((isZero32_iff a).mp ha) ((isFinite32_iff b).mp hb)]
  exact result32_zero ..

theorem zero_fdiv (ha : isZero32 a = true) (hb : isFinite32 b = true) (hne : isZero32 b = false) :
    isZero32 (fdiv c a b) = true ∧ (fdiv c a b).msb = (a.msb != b.msb) := by
  rw [fdiv, binary32_regular.divSM_zero_left ((isZero32_iff a).mp ha) ((isFinite32_iff b).mp hb)
    ((isZero32_eq_false_iff b).mp hne)]
  exact result32_zero ..

end

/-! ## Neutral operands, with FTZ false -/

section
variable {c : Cfg} (hc : c.ftz = false) {a : F32}
include hc

/-- A value that is no NaN times 1. -/
theorem fmul_lit1 (ha : isNaN32 a = false) : fmul c a lit1 = a := by
  have ha' := (isNaN32_eq_false_iff a).mp ha
  have hone : unpack32 lit1 = ⟨false, 0x3F800000⟩ := by decide
  have hunits : binary32.units 0x3F800000 = 2 ^ binary32.unit := by decide
  have hproduct : binary32.mulSM (unpack32 a) (unpack32 lit1) = some (unpack32 a) := by
    rcases ha'.eq_or_lt with hinf | hfin
    · rw [FloatFormat.mulSM_inf_left hinf (by decide) (by decide), hone, ← hinf]
      simp [unpack32]
    · have hbelow : ¬ binary32.infMag < 0x3F800000 := by decide
      have hne : 0x3F800000 ≠ binary32.infMag := by decide
      simp only [FloatFormat.mulSM, hone, hfin.not_gt, hfin.ne, hbelow, hne, hunits, decide_false,
        Bool.or_self, Bool.false_eq_true, if_false, Bool.bne_false,
        binary32.roundUnits_units binary32_hidden (by positivity : 0 < 2 ^ binary32.unit) hfin.le]
  rw [fmul, hproduct, result32_some hc, pack32_unpack32]

/-- A value that is no NaN and no zero plus a zero. -/
theorem fadd_zero (ha : isNaN32 a = false) (hne : isZero32 a = false) {z : F32} (hz : isZero32 z = true) :
    fadd c a z = a := by
  rw [fadd, binary32_regular.addSM_zero_right ((isNaN32_eq_false_iff a).mp ha)
    ((isZero32_eq_false_iff a).mp hne) ((isZero32_iff z).mp hz), result32_some hc, pack32_unpack32]

end

/-! ## The silent mix -/

/-- A mix parameter that is not above 0 has a zero as its target (R210). -/
theorem isZero32_mixTarget (c : Cfg) {mixPct : F32} (h : fle mixPct lit0 = true) :
    isZero32 (mixTarget c mixPct) = true := by
  have hzero : isZero32 (fclamp mixPct lit0 lit100) = true := by
    have hnan : isNaN32 mixPct = false := by
      rw [← Bool.not_eq_true]
      intro hnan
      rw [fle_of_isNaN32 (.inl hnan)] at h
      cases h
    have hkey0 : (unpack32 lit0).key = 0 := rfl
    have hkey100 : 0 < (unpack32 lit100).key := by decide
    rw [fle_eq_true_iff hnan (by decide), hkey0] at h
    cases hbelow : flt mixPct lit0
    · have hge : 0 ≤ (unpack32 mixPct).key := by
        rw [← not_lt, ← hkey0, ← flt_eq_true_iff hnan (by decide), hbelow]; simp
      have habove : flt lit100 mixPct = false := by
        rw [← Bool.not_eq_true, flt_eq_true_iff (by decide) hnan]
        omega
      rw [fclamp_inside hbelow habove, isZero32_iff]
      unfold SignMag.key at h hge
      split_ifs at h hge <;> omega
    · rw [fclamp_below hbelow]
      rfl
  exact (zero_fdiv c hzero (by decide) (by decide)).1

/-- A ratio at +0.0, or one that starts from a zero target with a MIXC that is not negative, goes to +0.0. -/
theorem smoothMix_silent {c : Cfg} (hc : c.ftz = false) {g : Engine} (hg : isFinite32 g.mixc = true)
    {m : F32} (hm : isZero32 m = true) {x : MixState} (hprimed : x.primed = true → x.sm = lit0)
    (hunprimed : x.primed = false → g.mixc.msb = false) : smoothMix c g m x = lit0 := by
  rw [smoothMix_of_ftz_false hc]
  cases hp : x.primed with
  | false =>
    obtain ⟨hdiff, hdiffsign⟩ := fsub_zeros c hm hm
    obtain ⟨hstep, hstepsign⟩ := fmul_zero c hg hdiff
    obtain ⟨hsum, hsumsign⟩ := fadd_zeros c hm hstep
    apply eq_lit0_of_isZero32 hsum
    rw [hsumsign, hstepsign, hdiffsign, hunprimed hp]
    cases m.msb <;> rfl
  | true =>
    rw [hprimed hp]
    obtain ⟨hdiff, -⟩ := fsub_zeros c hm (b := lit0) (by decide)
    obtain ⟨hstep, -⟩ := fmul_zero c hg hdiff
    obtain ⟨hsum, hsumsign⟩ := fadd_zeros c (a := lit0) (by decide) hstep
    exact eq_lit0_of_isZero32 hsum hsumsign

/-- The same pattern, or a zero for a zero. -/
def SameOrZeros (a b : F32) : Prop := a = b ∨ (isZero32 a = true ∧ isZero32 b = true)

/-- The crossfade at ratio +0.0 gives the dry signal (R212). -/
theorem crossfade_silent {c : Cfg} (hc : c.ftz = false) (hsin : sinF32 c lit0 = lit0)
    (hcos : cosF32 c lit0 = lit1) {dry wet : F32} (hdry : isNaN32 dry = false)
    (hwet : isFinite32 wet = true) : SameOrZeros (crossfade c lit0 dry wet) dry := by
  have hangle : fmul c lit0 halfPiF = lit0 := by
    obtain ⟨hzero, hsign⟩ := zero_fmul c (a := lit0) (b := halfPiF) (by decide) (by decide)
    exact eq_lit0_of_isZero32 hzero hsign
  obtain ⟨hsilent, -⟩ := fmul_zero c hwet (b := lit0) (by decide)
  simp only [crossfade, hangle, hsin, hcos, fmul_lit1 hc hdry]
  cases hzero : isZero32 dry
  · exact .inl (fadd_zero hc hdry hzero hsilent)
  · exact .inr ⟨(fadd_zeros c hzero hsilent).1, hzero⟩

theorem SameOrZeros.softclip {a b : F32} (h : SameOrZeros a b) (c : Cfg) :
    SameOrZeros (softclip c a) (softclip c b) := by
  rcases h with rfl | ⟨ha, hb⟩
  · exact .inl rfl
  · exact .inr ⟨by rwa [Machine.softclip, tanhF32_of_isZero32 c ha],
      by rwa [Machine.softclip, tanhF32_of_isZero32 c hb]⟩

/-- Settles O58: stage 2's ratio stays at +0.0, at which the crossfade gives its input, the output of stage 1. -/
theorem cascadeAtMixZeroIsStandard : Obligations.CascadeAtMixZeroIsStandard := by
  intro c g ch b x I1 I2 hc hsin hcos hg hprimed hunprimed hbyp hmix s1 r1 r2 r3 r4 wet hs1 hwet
  have hratio : smoothMix c g (mixTarget c b.p2.mixPct) I2.mix = lit0 :=
    smoothMix_silent hc hg (isZero32_mixTarget c hmix) hprimed hunprimed
  have hstage : (stage c g ch .two s1 b.p2 I2).1.mix = ⟨lit0, true⟩ ∧
      (stage c g ch .two s1 b.p2 I2).2 = crossfade c lit0 s1 wet := by
    rw [← hratio]
    exact ⟨rfl, rfl⟩
  have hout := (crossfade_silent hc hsin hcos hs1 hwet).softclip c
  rw [← hstage.2] at hout
  simp only [engineSample, hbyp, Bool.false_eq_true, if_false, Bool.not_true, Bool.not_false, if_true]
  exact ⟨trivial, hstage.1, hout⟩

end Sys2Proof.Machine
end

section
/-! Single accesses of the host window: the checks of a word written to CMD, the command it runs, and the reads and writes performed, refused or stored (R62, R64 to R67, R70, R90 to R95). -/

namespace Sys2Proof.Machine

/-! ## The checks of a command word -/

/-- The opcodes of the engine commands (R92, R93). -/
def engineOpcode (opc : BitVec 8) : Prop :=
  opc = 0x01#8 ∨ opc = 0x02#8 ∨ opc = 0x03#8 ∨ opc = 0x16#8

/-- The opcodes of the opcode map (R93). -/
def knownOpcode (opc : BitVec 8) : Prop :=
  engineOpcode opc ∨ opc = 0x04#8 ∨ opc = 0x10#8 ∨ opc = 0x11#8 ∨ opc = 0x12#8 ∨
    opc = 0x13#8 ∨ opc = 0x14#8 ∨ opc = 0x15#8

theorem instrOfOpc_unknown {opc : BitVec 8} (h : ¬ knownOpcode opc) (ch : Channel) (st : Stage) :
    instrOfOpc opc ch st = none := by
  simp only [knownOpcode, engineOpcode, not_or] at h
  simp [instrOfOpc, h]

/-- An opcode of the map gives a command, an engine command exactly when it is the opcode of one. -/
theorem instrOfOpc_known {opc : BitVec 8} (h : knownOpcode opc) (ch : Channel) (st : Stage) :
    ∃ i, instrOfOpc opc ch st = some i ∧ (i.isEngine = true ↔ engineOpcode opc) := by
  rcases h with (rfl | rfl | rfl | rfl) | rfl | rfl | rfl | rfl | rfl | rfl | rfl
  all_goals exact ⟨_, rfl, by simp [Instr.isEngine, engineOpcode]⟩

/-- Check 1 of R95. -/
theorem decode_of_unknownOpcode {w : Word} (h : ¬ knownOpcode (fieldOpc w)) :
    decode w = .error .illegalOpcode := by
  rw [decode, instrOfOpc_unknown h]

/-- Check 2 of R95. -/
theorem decode_of_reservedBits {w : Word} (h : knownOpcode (fieldOpc w)) (hrsv : fieldRsv w ≠ 0#22) :
    decode w = .error .reservedBits := by
  obtain ⟨i, hi, -⟩ := instrOfOpc_known h (fieldCh w) (fieldSt w)
  simp [decode, hi, hrsv]

/-- Check 3 of R95. -/
theorem decode_of_engineFields {w : Word} (h : engineOpcode (fieldOpc w)) (hrsv : fieldRsv w = 0#22)
    (hfields : fieldStCh w ≠ 0#2) : decode w = .error .reservedBits := by
  obtain ⟨i, hi, hengine⟩ := instrOfOpc_known (.inl h) (fieldCh w) (fieldSt w)
  simp [decode, hi, hrsv, hengine.mpr h, hfields]

/-- A word that passes the checks of R95 is a command. -/
theorem decode_of_checked {w : Word} (h : knownOpcode (fieldOpc w)) (hrsv : fieldRsv w = 0#22)
    (hfields : engineOpcode (fieldOpc w) → fieldStCh w = 0#2) : ∃ i, decode w = .ok i := by
  obtain ⟨i, hi, hengine⟩ := instrOfOpc_known h (fieldCh w) (fieldSt w)
  refine ⟨i, ?_⟩
  simp only [decode, hi, hrsv, ne_eq, not_true_eq_false, if_false]
  rw [if_neg]
  simpa using fun hkind => hfields (hengine.mp hkind)

/-! ## A word written to CMD -/

theorem command_of_error {w : Word} {e : DecodeError} (h : decode w = .error e) (s : State) :
    command w s = .next (raiseFault (faultOfDecode e) s).endCommand := by
  rw [command, h]

theorem command_of_ok {w : Word} {i : Instr} (h : decode w = .ok i) (s : State) :
    ∃ t, exec i s = .next t ∧ command w s = .next t.endCommand := by
  obtain ⟨t, hexec, -⟩ := exec_effect i s
  exact ⟨t, hexec, by simp only [command, h, hexec]⟩

/-- Settles O4: the checks of R95 in their order, and a word that passes them is the encoding of what it decodes to. -/
theorem decodingOrder : Obligations.DecodingOrder := by
  intro w s opc engine known
  refine ⟨fun hunknown => ?_, fun hknown hrsv => ?_, fun hengine hrsv hfields => ?_,
    fun hknown hrsv hfields => ?_⟩
  · exact command_of_error (decode_of_unknownOpcode hunknown) s
  · exact command_of_error (decode_of_reservedBits hknown hrsv) s
  · exact command_of_error (decode_of_engineFields hengine hrsv hfields) s
  · obtain ⟨i, hdecode⟩ := decode_of_checked hknown hrsv hfields
    obtain ⟨t, hexec, hcommand⟩ := command_of_ok hdecode s
    exact ⟨i, t, hdecode, encode_of_decode hdecode, hexec, hcommand⟩

/-! ## One access of the window -/

section
variable {addr : Nat} {s : State}

theorem hostAccess_unadmitted (hin : inWindow s.cfg addr = true) {bytes : Nat}
    (h : bytes ≠ 4 ∨ (addr - s.cfg.base) % 4 ≠ 0) (v : Option Word) :
    hostAccess addr bytes v s = .fault .unadmittedAccess := by
  have hrefused : accessAdmitted bytes (addr - s.cfg.base) = false := by
    rwa [accessAdmitted, Bool.and_eq_false_iff, beq_eq_false_iff_ne, beq_eq_false_iff_ne]
  simp [hostAccess, hin, hrefused]

theorem hostAccess_read (hin : inWindow s.cfg addr = true) (halign : (addr - s.cfg.base) % 4 = 0) :
    hostAccess addr 4 none s =
      .next { s with reads := s.windowRead (addr - s.cfg.base) :: s.reads } := by
  simp [hostAccess, hin, accessAdmitted, halign]

theorem hostAccess_write (hin : inWindow s.cfg addr = true) (halign : (addr - s.cfg.base) % 4 = 0)
    (hcmd : addr ≠ s.cfg.base) (v : Word) :
    hostAccess addr 4 (some v) s = .next (s.windowWrite (addr - s.cfg.base) v) := by
  simp [hostAccess, hin, accessAdmitted, halign, hcmd]

end

/-- The word at BASE is CMD, and it is in every window. -/
theorem hostAccess_command (w : Word) (s : State) : hostAccess s.cfg.base 4 (some w) s = command w s := by
  simp [hostAccess, inWindow, windowSize, accessAdmitted]

/-- The step that performs the write of a command to CMD. -/
theorem step_command {s : State} {w : Word} {i : Instr} {rest : List HostEvent}
    (hlegal : s.cfg.legal = true) (hhost : s.host = commandEvent s.cfg w :: rest)
    (hdecode : decode w = .ok i) :
    ∃ t, exec i { s with host := rest } = .next t ∧ step s = .next t.endCommand := by
  rw [step_of_legal hlegal hhost]
  obtain ⟨t, hexec, hcommand⟩ := command_of_ok hdecode { s with host := rest }
  exact ⟨t, hexec, (hostAccess_command w { s with host := rest }).trans hcommand⟩

theorem decodeTableWord_eq_some {nbits w : Nat} {i : Instr} (h : decodeTableWord nbits w = some i) :
    decode (tableWord nbits w) = .ok i := by
  unfold decodeTableWord at h
  split at h
  · next hdecode => rw [hdecode, Option.some.inj h]
  · cases h

/-- Settles O5: the same step lemma for a word the host writes and for one placed by `withFetchWord`. -/
theorem stepRunsTheCommand : Obligations.StepRunsTheCommand := by
  constructor
  · exact fun s w i rest hlegal hhost hdecode => step_command hlegal hhost hdecode
  · intro s nbits w i hlegal htable
    exact step_command (s := s.withFetchWord nbits w) (rest := s.host) hlegal rfl
      (decodeTableWord_eq_some htable)

/-- Settles O6: an admitted read is the oldest event, and its word is logged. -/
theorem hostReadStep : Obligations.HostReadStep := by
  intro s addr rest hlegal hhost hin halign
  rw [step_of_legal hlegal hhost]
  exact hostAccess_read (s := { s with host := rest }) hin halign

/-- Settles O9: an admitted write away from BASE is the oldest event, and it is a window write. -/
theorem hostWriteStep : Obligations.HostWriteStep := by
  intro s addr v rest hlegal hhost hin halign hcmd
  rw [step_of_legal hlegal hhost]
  exact hostAccess_write (s := { s with host := rest }) hin halign hcmd v

/-- Settles O13: a read and a write pass the same test of width and offset. -/
theorem onlyAlignedWordAccesses : Obligations.OnlyAlignedWordAccesses := by
  intro s addr bytes v rest hlegal hin hhost
  obtain ⟨e, written, hhost, hperform⟩ : ∃ e written, s.host = e :: rest ∧
      hostEvent e { s with host := rest } = hostAccess addr bytes written { s with host := rest } := by
    rcases hhost with hread | hwrite
    · exact ⟨_, none, hread, rfl⟩
    · exact ⟨_, some v, hwrite, rfl⟩
  rw [step_of_legal hlegal hhost, hperform]
  constructor
  · rintro ⟨rfl, halign⟩
    obtain ⟨t, hnext, -⟩ := hostAccess_served (s := { s with host := rest }) hin halign written
    exact ⟨t, hnext⟩
  · exact fun h => hostAccess_unadmitted (s := { s with host := rest }) hin h written

/-! ## The bytes of a buffer word -/

theorem bufOffset_eq (ch : Channel) (i : Nat) : bufOffset ch i = 0x10000 * (chIndex ch + 1) + 4 * i := by
  cases ch <;> rfl

/-- The bytes after a word the buffer has is written, by their place in the word. -/
theorem readByte_bufWrite {s : State} (hwf : Memory.wf s.mem = true) (ch : Channel) {i : Nat}
    (hi : i < s.cfg.bufWords) (v : Word) (a : Nat) : (s.bufWrite ch i v).readByte a =
      if bufOffset ch i ≤ a ∧ a < bufOffset ch i + 4 then v.extractLsb' (8 * (a - bufOffset ch i)) 8
      else s.readByte a := by
  rw [State.readByte, bufWrite_mem, if_pos hi, cellGet_setWordAt_byte _ _ _ hwf]
  rfl

theorem bufRead_bufWrite_same {s : State} (hwf : Memory.wf s.mem = true) (ch : Channel) {i : Nat}
    (hi : i < s.cfg.bufWords) (v : Word) : (s.bufWrite ch i v).bufRead ch i = v := by
  rw [State.bufRead, State.bufWrite_cfg, if_pos hi, bufWrite_mem, if_pos hi,
    wordAt_setWordAt_same _ _ hwf]

/-- Settles O12: byte `k` of the word stands `k` bytes beyond its offset (R64). -/
theorem bufferBytesLittleEndian : Obligations.BufferBytesLittleEndian := by
  intro s ch i v hwf hi
  rw [← bufOffset_eq]
  refine ⟨fun k hk => ?_, fun a ha => ?_, bufRead_bufWrite_same hwf ch hi v⟩
  · rw [readByte_bufWrite hwf ch hi, if_pos (by omega), Nat.add_sub_cancel_left]
  · exact readByte_bufWrite_other s ch i v a hwf ha

end Sys2Proof.Machine
end

section
/-! The encoding: decoding and encoding are inverse, and the match and mask of each command word (R90 to R95). -/

namespace Sys2Proof.Machine

/-! ## Encoding inverted -/

/-- The fields of its command word are right for every instruction, each by its own law. -/
theorem encodingFields (i : Instr) : Laws.EncodingFields.Statement i :=
  match i with
  | .prepare => Laws.EncodingFields.prepare
  | .reset => Laws.EncodingFields.reset
  | .processBlock => Laws.EncodingFields.processBlock
  | .stageSample ch st => Laws.EncodingFields.stageSample ch st
  | .compress ch st => Laws.EncodingFields.compress ch st
  | .delaySample ch st => Laws.EncodingFields.delaySample ch st
  | .bbdSample ch st => Laws.EncodingFields.bbdSample ch st
  | .expand ch st => Laws.EncodingFields.expand ch st
  | .filterSample ch st => Laws.EncodingFields.filterSample ch st
  | .mixSample ch st => Laws.EncodingFields.mixSample ch st
  | .softclip => Laws.EncodingFields.softclip

/-- A command comes back from its word: the word passes each check of R95. -/
theorem decode_encode (i : Instr) : decode (encode i) = .ok i := by
  obtain ⟨hrsv, hopc, hfields⟩ := encodingFields i
  have hengine : (i.isEngine && fieldStCh (encode i) != 0#2) = false := by
    cases hkind : i.isEngine with
    | false => rfl
    | true => simp [hfields hkind]
  simp [decode, hopc, hrsv, hengine]

theorem decode_eq_ok_iff {w : Word} {i : Instr} : decode w = .ok i ↔ w = encode i :=
  ⟨fun h => (encode_of_decode h).symm, fun h => h ▸ decode_encode i⟩

/-- Settles O1: no instruction is ill-formed, so `decode_eq_ok_iff` is the whole statement. -/
theorem decodeInvertsEncode : Obligations.DecodeInvertsEncode := fun w i => by
  rw [decode_eq_ok_iff, Instr.wellFormed, eq_self_iff_true, true_and]

/-! ## Match and mask -/

/-- A command word bit by bit (R91). -/
theorem getLsbD_commandWord (opc : BitVec 8) (ch st : BitVec 1) (k : Nat) :
    (commandWord opc ch st).getLsbD k =
      if k < 8 then opc.getLsbD k else if k = 8 then ch.getLsbD 0
      else if k = 9 then st.getLsbD 0 else false := by
  simp only [commandWord, BitVec.getLsbD_append, BitVec.getLsbD_zero]
  grind

theorem getLsbD_chBit (ch : Channel) : (chBit ch).getLsbD 0 = decide (ch = .right) := by
  cases ch <;> rfl

theorem getLsbD_stBit (st : Stage) : (stBit st).getLsbD 0 = decide (st = .two) := by
  cases st <;> rfl

/-- The mask of R94 leaves out the bits of CH and ST only. -/
theorem getLsbD_fieldMask {k : Nat} (hk : k < 32) :
    (0xFFFFFCFF#32).getLsbD k = decide (k ≠ 8 ∧ k ≠ 9) := by
  have hbits : ∀ k : Fin 32, (0xFFFFFCFF#32).getLsbD k = decide ((k : Nat) ≠ 8 ∧ (k : Nat) ≠ 9) := by
    decide
  exact hbits ⟨k, hk⟩

/-- A word matches an opcode under the mask exactly when its bits outside CH and ST are those of the opcode. -/
theorem masked_eq_iff {w : Word} {opc : BitVec 8} :
    w &&& 0xFFFFFCFF#32 = opc.setWidth 32 ↔
      ∀ k < 32, k ≠ 8 → k ≠ 9 → w.getLsbD k = opc.getLsbD k := by
  rw [BitVec.eq_of_getLsbD_eq_iff]
  refine forall₂_congr fun k hk => ?_
  rw [BitVec.getLsbD_and, getLsbD_fieldMask hk, BitVec.getLsbD_setWidth]
  by_cases hfield : k = 8 ∨ k = 9
  · rcases hfield with rfl | rfl <;> simp
  · rw [not_or] at hfield
    simp [hfield, hk]

/-- The word of an opcode with its CH and ST is the one that matches the opcode under the mask and has CH in bit 8 and ST in bit 9 (R94). -/
theorem eq_commandWord_iff {w : Word} {opc : BitVec 8} {ch : Channel} {st : Stage} :
    w = commandWord opc (chBit ch) (stBit st) ↔ w &&& 0xFFFFFCFF#32 = opc.setWidth 32 ∧
      w.getLsbD 8 = decide (ch = .right) ∧ w.getLsbD 9 = decide (st = .two) := by
  rw [masked_eq_iff]
  constructor
  · rintro rfl
    refine ⟨fun k hk h8 h9 => ?_, ?_, ?_⟩
    · rw [getLsbD_commandWord]
      split_ifs with hlow
      · rfl
      · exact (BitVec.getLsbD_of_ge opc k (not_lt.mp hlow)).symm
    · rw [← getLsbD_chBit, getLsbD_commandWord]; rfl
    · rw [← getLsbD_stBit, getLsbD_commandWord]; rfl
  · rintro ⟨hopc, hch, hst⟩
    refine BitVec.eq_of_getLsbD_eq fun k hk => ?_
    rw [getLsbD_commandWord, getLsbD_chBit, getLsbD_stBit]
    split_ifs with hlow h8 h9
    · exact hopc k hk (by omega) (by omega)
    · rw [h8, hch]
    · rw [h9, hst]
    · rw [hopc k hk h8 h9, BitVec.getLsbD_of_ge opc k (not_lt.mp hlow)]

theorem decode_eq_instance_iff {w : Word} {i : Instr} {opc : BitVec 8} {ch : Channel} {st : Stage}
    (hi : encode i = commandWord opc (chBit ch) (stBit st)) :
    decode w = .ok i ↔ w &&& 0xFFFFFCFF#32 = opc.setWidth 32 ∧
      w.getLsbD 8 = decide (ch = .right) ∧ w.getLsbD 9 = decide (st = .two) := by
  rw [decode_eq_ok_iff, hi, eq_commandWord_iff]

/-- Settles O2: an engine command decodes from its encoding alone, a command with CH and ST from the words of its opcode under the mask. -/
theorem commandWordsMatch : Obligations.CommandWordsMatch := by
  refine ⟨fun w => ?whole, ?masked, decode_encode (.compress .right .two)⟩
  case whole =>
    exact ⟨decode_eq_ok_iff, decode_eq_ok_iff, decode_eq_ok_iff, decode_eq_ok_iff⟩
  case masked =>
    intro w ch st fields
    exact ⟨decode_eq_instance_iff (opc := 0x04#8) rfl,
      decode_eq_instance_iff (opc := 0x10#8) rfl, decode_eq_instance_iff (opc := 0x11#8) rfl,
      decode_eq_instance_iff (opc := 0x12#8) rfl, decode_eq_instance_iff (opc := 0x13#8) rfl,
      decode_eq_instance_iff (opc := 0x14#8) rfl, decode_eq_instance_iff (opc := 0x15#8) rfl⟩

/-- Settles O3: a command word decodes because it is an encoding, any other by the check of R95 that refuses it. -/
theorem writtenOutWordsDecode : Obligations.WrittenOutWordsDecode := by
  refine ⟨decode_encode .prepare, decode_encode .reset, decode_encode .processBlock,
    decode_encode (.stageSample .right .one), decode_encode (.compress .right .two),
    decode_encode (.delaySample .left .two), decode_encode (.bbdSample .left .one),
    decode_encode (.expand .right .one), decode_encode (.filterSample .right .two),
    decode_encode (.mixSample .right .one), decode_encode .softclip, ?_, ?_, ?_, ?_⟩
  · exact decode_of_unknownOpcode (by unfold knownOpcode engineOpcode; decide)
  · exact decode_of_unknownOpcode (by unfold knownOpcode engineOpcode; decide)
  · exact decode_of_reservedBits (by unfold knownOpcode engineOpcode; decide) (by decide)
  · exact decode_of_engineFields (by unfold engineOpcode; decide) (by decide) (by decide)

end Sys2Proof.Machine
end

section
/-! The outcomes of the commands: the fault or the next state of each, the words a block writes, and the noise draws taken (R111, R114, R116, R117, R171, R241, R250, R270, R275). -/

namespace Sys2Proof.Machine

/-! ## A command faults or runs -/

/-- PREPARE takes its fault, or installs the engine state. -/
theorem exec_prepare_faultOf (s : State) :
    exec .prepare s = .next ((faultOf .prepare s).elim s.prepared (raiseFault · s)) := by
  rw [faultOf_prepare]
  show execPrepare s = _
  unfold execPrepare
  split_ifs <;> rfl

/-- PROCESS_BLOCK takes its fault, does nothing before PREPARE, or runs its samples. -/
theorem exec_processBlock_faultOf (s : State) : exec .processBlock s =
    .next ((faultOf .processBlock s).elim (if s.eng.prep then s.blockProcessed else s) (raiseFault · s)) := by
  rw [faultOf_processBlock, exec_processBlock, State.blockOutcome]
  by_cases hlen : s.blockLimit < s.blockLen.toNat
  · rw [if_pos hlen, if_pos hlen]; rfl
  · rw [if_neg hlen, if_neg hlen]
    cases s.eng.prep with
    | false => rfl
    | true => cases !s.bypass && s.blockNaN <;> rfl

/-- A command that names a CH and an ST takes its fault, passes A0 through before PREPARE, or runs its module function. -/
theorem exec_instanceInstr_faultOf {ch : Channel} {st : Stage} {i : Instr} (hi : i ∈ instanceInstrs ch st)
    (s : State) : exec i s = .next ((faultOf i s).elim
      (if s.eng.prep then s.sampled ch st i else s.setResult s.a0) (raiseFault · s)) := by
  rw [exec_eq_instanceCommand hi, faultOf_instanceInstr hi]
  rcases instanceCommand_cases ch st ((usedParams i).map Prod.snd) (moduleOf s i) s with
    ⟨hprep, h⟩ | ⟨hprep, hnan, h⟩ | ⟨hprep, hnan, h⟩ <;> rw [h, hprep]
  · rfl
  · rw [hnan]; rfl
  · rw [hnan]; rfl

/-- A command that meets a fault condition ends in that fault and in nothing else (R272, R275). -/
theorem exec_of_fault {i : Instr} {s : State} {code : FaultCode} (h : faultOf i s = some code) :
    exec i s = .next (raiseFault code s) := by
  cases i with
  | prepare => rw [exec_prepare_faultOf, h]; rfl
  | processBlock => rw [exec_processBlock_faultOf, h]; rfl
  | reset | softclip => simp [faultOf, usedParams, State.holdsNaN] at h
  | stageSample ch st | compress ch st | delaySample ch st | bbdSample ch st | expand ch st
  | filterSample ch st | mixSample ch st =>
    rw [exec_instanceInstr_faultOf (ch := ch) (st := st) (by simp [instanceInstrs]), h]; rfl

/-- Settles O17: the first condition that holds is the fault `exec` raises, and raising it writes ERR only. -/
theorem faultChangesOnlyErr : Obligations.FaultChangesOnlyErr := by
  refine ⟨fun i s code h => ?_, rfl, rfl, rfl, rfl, rfl⟩
  rw [exec_of_fault h, raiseFault_eq]

/-- Settles O26: before PREPARE no parameter is checked and no module function run. -/
theorem passThroughBeforePrepare : Obligations.PassThroughBeforePrepare := by
  refine ⟨fun s hprep => ⟨fun ch st i hi => ?instances, fun hlen => ?block⟩, fun s => rfl⟩
  case instances =>
    rw [exec_instanceInstr_faultOf hi, faultOf_instanceInstr hi, hprep]
    rfl
  case block =>
    have hlimit : ¬ s.blockLimit < s.blockLen.toNat := by rw [State.blockLimit, hprep]; exact hlen.not_gt
    rw [exec_processBlock_faultOf, faultOf_processBlock, if_neg hlimit, hprep]
    rfl

/-- Settles O34: without a fault PREPARE ends in `State.prepared`, here written out. -/
theorem prepareResult : Obligations.PrepareResult := by
  intro s hnone
  rw [exec_prepare_faultOf, hnone]
  rfl

/-! ## Values in [-1, 1] -/

/-- Settles O33: SOFTCLIP is `tanh_f32`, which is bounded for every NUM. -/
theorem softclipResult : Obligations.SoftclipResult := fun s =>
  ⟨rfl, fun hnan => ⟨isFinite32_of_withinOne (withinOne_tanhF32 s.cfg hnan),
    abs_value32_le_one (withinOne_tanhF32 s.cfg hnan)⟩⟩

/-- Every output of ENGINE has passed the soft clip (R234). -/
theorem engineSample_softclipped (c : Cfg) (g : Engine) (ch : Channel) (b : BlockRun) (x : F32)
    (pair : Inst × Inst) : ∃ y, (engineSample c g ch b x pair).2 = softclip c y := by
  unfold engineSample
  split_ifs <;> exact ⟨_, rfl⟩

theorem runChannel_bounded (c : Cfg) (g : Engine) (ch : Channel) (b : BlockRun) {y : F32} :
    ∀ (xs : List F32) (pair : Inst × Inst), y ∈ (runChannel c g ch b xs pair).2 →
      isNaN32 y = true ∨ withinOne y = true
  | [], _, hy => absurd hy List.not_mem_nil
  | x :: xs, pair, hy => by
    rcases List.mem_cons.mp hy with rfl | hlater
    · obtain ⟨z, hz⟩ := engineSample_softclipped c g ch b x pair
      rw [hz]
      exact tanhF32_bounded c z
    · exact runChannel_bounded c g ch b xs _ hlater

/-- Settles O41: the block's words are outputs of ENGINE. -/
theorem blockOutputsBounded : Obligations.BlockOutputsBounded := by
  intro s t hlegal hinstalled hwf hprep hnone hexec ch i hi
  obtain ⟨u, hu, hchannels, -⟩ := blockRunsBothChannels s hlegal hinstalled hwf hprep hnone
  rw [hexec] at hu
  obtain rfl := Host.Outcome.next.inj hu
  obtain ⟨-, -, hwords⟩ := hchannels ch
  have hmem : t.bufRead ch i ∈ t.samples ch s.blockLen.toNat :=
    List.mem_map_of_mem (List.mem_range.mpr hi)
  rw [hwords] at hmem
  exact (runChannel_bounded _ _ _ _ _ _ hmem).imp_right fun h =>
    ⟨isFinite32_of_withinOne h, abs_value32_le_one h⟩

/-! ## One noise draw -/

theorem withinOne_of_fle {w : F32} (hlo : fle 0xBF800000#32 w = true) (hhi : fle w lit1 = true) :
    withinOne w = true := by
  have hnan : isNaN32 w = false := by
    cases h : isNaN32 w
    · rfl
    · rw [fle_of_isNaN32 (.inl h)] at hhi; cases hhi
  have hkeyLo : (unpack32 0xBF800000#32).key = -0x3F800000 := by decide
  have hkeyHi : (unpack32 lit1).key = 0x3F800000 := by decide
  rw [fle_eq_true_iff (by decide) hnan, hkeyLo] at hlo
  rw [fle_eq_true_iff hnan (by decide), hkeyHi] at hhi
  rw [withinOne_iff]
  unfold SignMag.key at hlo hhi
  split_ifs at hlo hhi <;> omega

section
variable (ch : Channel) (st : Stage) (n : Noise)

theorem withinOne_noiseDraw : withinOne (noiseDraw ch st n).2 = true := by
  unfold noiseDraw
  split <;> simp

@[simp] theorem noiseDraw_taken : (noiseDraw ch st n).1.taken = n.taken + 1 := by
  unfold noiseDraw
  split <;> rfl

theorem noiseDraw_of_listed {w : F32} {rest : List F32} (hqueue : n.queue = w :: rest)
    (hw : withinOne w = true) : noiseDraw ch st n = (⟨rest, n.taken + 1⟩, w) := by
  rw [noiseDraw, hqueue]
  simp only [boundedByOne, hw, if_true]

end

/-! ## Draws taken by a module function -/

@[simp] theorem bbdInst_taken (c : Cfg) (ch : Channel) (st : Stage) (x delayMs : F32) (I : Inst) :
    (bbdInst c ch st x delayMs I).1.noise.taken = I.noise.taken + 1 :=
  noiseDraw_taken ch st I.noise

/-- A stage evaluates BBD once (R232). -/
@[simp] theorem stage_taken (c : Cfg) (g : Engine) (ch : Channel) (st : Stage) (x : F32) (p : StageParams)
    (I : Inst) : (stage c g ch st x p I).1.noise.taken = I.noise.taken + 1 := by
  simp [stage]

/-! ## Draws taken by a command -/

section
variable {i : Instr} {s : State}

theorem drawsTaken_of_unprepared (h : s.eng.prep = false) (ch : Channel) (st : Stage) :
    drawsTaken i s ch st = 0 :=
  if_pos (.inl h)

theorem drawsTaken_of_fault {code : FaultCode} (h : faultOf i s = some code) (ch : Channel) (st : Stage) :
    drawsTaken i s ch st = 0 :=
  if_pos (.inr (Option.isSome_of_eq_some h))

end

section
variable {ch : Channel} {st : Stage} {i : Instr} {s : State} (hi : i ∈ instanceInstrs ch st)
include hi

/-- A module function takes the draws of its command. -/
theorem moduleOf_taken (hprep : s.eng.prep = true) (hnone : faultOf i s = none) (I : Inst) :
    (moduleOf s i I).1.noise.taken = I.noise.taken + drawsTaken i s ch st := by
  revert hnone
  apply forall_instanceInstrs hi <;> intro hnone <;> simp [moduleOf, drawsTaken, hprep, hnone]

theorem drawsTaken_otherInst {ch' : Channel} {st' : Stage} (hother : ¬ (ch' = ch ∧ st' = st)) :
    drawsTaken i s ch' st' = 0 := by
  have hother' : ¬ (ch = ch' ∧ st = st') := fun h => hother ⟨h.1.symm, h.2.symm⟩
  apply forall_instanceInstrs hi <;> simp [drawsTaken, hother']

theorem sampled_taken (hprep : s.eng.prep = true) (hnone : faultOf i s = none) (ch' : Channel) (st' : Stage) :
    ((s.sampled ch st i).inst ch' st').noise.taken =
      (s.inst ch' st').noise.taken + drawsTaken i s ch' st' := by
  rw [State.inst_sampled]
  split_ifs with hown
  · obtain ⟨rfl, rfl⟩ := hown
    exact moduleOf_taken hi hprep hnone _
  · rw [drawsTaken_otherInst hi hown]; rfl

end

/-- How often ENGINE evaluates BBD on a channel's instance of a stage, for each sample of a block (R234). -/
def BlockRun.bbdEvaluations (b : BlockRun) : Stage → Nat
  | .one => if b.byp then 0 else 1
  | .two => if b.byp || !b.casc then 0 else 1

theorem engineSample_taken (c : Cfg) (g : Engine) (ch : Channel) (b : BlockRun) (x : F32) (pair : Inst × Inst)
    (st : Stage) : (ofStage (engineSample c g ch b x pair).1 st).noise.taken =
      (ofStage pair st).noise.taken + b.bbdEvaluations st := by
  unfold engineSample BlockRun.bbdEvaluations
  cases b.byp <;> cases b.casc <;> cases st <;> simp

theorem sampleStep_taken (b : BlockRun) (ch : Channel) (i : Nat) (s : State) (ch' : Channel) (st : Stage) :
    ((sampleStep b ch i s).inst ch' st).noise.taken =
      (s.inst ch' st).noise.taken + if ch' = ch then b.bbdEvaluations st else 0 := by
  rw [inst_sampleStep]
  split_ifs with hch
  · rw [sampleResult, engineSample_taken, hch]
    cases st <;> rfl
  · rfl

theorem channelLoop_taken (b : BlockRun) (ch ch' : Channel) (st : Stage) : ∀ (k i : Nat) (s : State),
    ((channelLoop b ch k i s).inst ch' st).noise.taken =
      (s.inst ch' st).noise.taken + k * if ch' = ch then b.bbdEvaluations st else 0
  | 0, _, _ => by rw [Nat.zero_mul]; rfl
  | k + 1, i, s => by
    rw [channelLoop, channelLoop_taken b ch ch' st k (i + 1), sampleStep_taken]
    ring

/-- Every sample of a channel's block evaluates BBD on the channel's own instances. -/
theorem blockProcessed_taken (s : State) (ch : Channel) (st : Stage) :
    (s.blockProcessed.inst ch st).noise.taken =
      (s.inst ch st).noise.taken + s.blockLen.toNat * s.snapshot.bbdEvaluations st := by
  rw [State.blockProcessed, channelLoop_taken, channelLoop_taken]
  cases ch <;> simp [State.snapshot]

theorem drawsTaken_processBlock {s : State} (hprep : s.eng.prep = true)
    (hnone : faultOf .processBlock s = none) (ch : Channel) (st : Stage) :
    drawsTaken .processBlock s ch st = s.blockLen.toNat * s.snapshot.bbdEvaluations st := by
  unfold drawsTaken BlockRun.bbdEvaluations State.snapshot State.bypass State.cascaded
  rw [if_neg (by simp [hprep, hnone])]
  cases s.ctrl.getLsbD 0 <;> cases s.ctrl.getLsbD 1 <;> cases st <;> simp

/-- Without a fault every command takes the draws counted for it. -/
theorem CommandEffect.taken {i : Instr} {s t : State} (h : CommandEffect s i t) (hnone : faultOf i s = none)
    (ch : Channel) (st : Stage) :
    (t.inst ch st).noise.taken = (s.inst ch st).noise.taken + drawsTaken i s ch st := by
  cases h with
  | fault hfault => rw [hnone] at hfault; cases hfault
  | prepare _ _ _ => rw [State.inst_prepared]; simp [drawsTaken, prepareInst, clearInst]
  | reset => rw [State.inst_cleared]; simp [drawsTaken, clearInst]
  | softclip => simp [drawsTaken]
  | blockPassed hprep => rw [drawsTaken_of_unprepared hprep]; rfl
  | passed _ hprep => rw [drawsTaken_of_unprepared hprep, State.inst_setResult]; rfl
  | blockRun hprep _ _ => rw [blockProcessed_taken, drawsTaken_processBlock hprep hnone]
  | sampled hi hprep _ => exact sampled_taken hi hprep hnone ch st

/-- Settles O44: every draw is bounded by its range, and every BBD evaluation takes one. -/
theorem noiseDrawsCounted : Obligations.NoiseDrawsCounted := by
  refine ⟨fun ch st n => ?draw, fun i s t hexec ch st => ?count⟩
  case draw =>
    have hbound := withinOne_noiseDraw ch st n
    refine ⟨isFinite32_of_withinOne hbound, abs_value32_le_one hbound, fun w rest hqueue hlo hhi => ?_⟩
    rw [noiseDraw_of_listed ch st n hqueue (withinOne_of_fle hlo hhi)]
    exact ⟨rfl, rfl⟩
  case count =>
    cases hfault : faultOf i s with
    | none => exact (CommandEffect.of_exec hexec).taken hfault ch st
    | some code =>
      rw [exec_of_fault hfault] at hexec
      obtain rfl := Host.Outcome.next.inj hexec
      rw [inst_raiseFault, drawsTaken_of_fault hfault, Nat.add_zero]

end Sys2Proof.Machine
end

section
/-! The interpolated delay line: exact and bounded arithmetic on its samples and positions, what PREPARE installs for it, its read position, and its exactness at a whole-sample delay (R130 to R140, R252). -/

namespace Sys2Proof.Machine

/-! ## Exact results -/

/-- A result that binary32 holds is not changed by rounding. -/
theorem Rounds32.value32_exact {q : ℚ} {r z : F32} (h : Rounds32 q r) (hz : Machine.isFinite32 z = true)
    (hq : value32 z = q) : Machine.isFinite32 r = true ∧ value32 r = q := by
  have hr : Machine.isFinite32 r = true := h.isFinite32 hz (by rw [hq])
  rcases h with ⟨-, -, nearest, -⟩ | ⟨hinf, -⟩
  · have hzero := nearest z hz
    rw [hq, sub_self, abs_zero, abs_nonpos_iff, sub_eq_zero] at hzero
    exact ⟨hr, hzero.symm⟩
  · rw [isFinite32_iff] at hr
    rw [isInf32_iff] at hinf
    omega

/-- An integral result below `2 ^ 24` is exact. -/
theorem Rounds32.integer_exact {n : ℤ} {r : F32} (h : Rounds32 n r) (hn : |n| < 2 ^ 24) :
    Machine.isFinite32 r = true ∧ value32 r = n :=
  h.value32_exact (intToF32_exact hn).1 (intToF32_exact hn).2

theorem isZero32_of_value32 {x : F32} (h : value32 x = 0) : isZero32 x = true := by
  rwa [value32_eq, binary32_regular.signedValue_eq_zero, ← isZero32_iff] at h

/-- A finite value less itself is +0.0 (R9). -/
theorem fsub_self {c : Cfg} (hc : c.ftz = false) {x : F32} (hx : isFinite32 x = true) :
    fsub c x x = lit0 := by
  obtain ⟨hround, hsign⟩ := fsub_finite hc hx hx
  rw [sub_self] at hround hsign
  apply eq_lit0_of_isZero32
  · exact isZero32_of_value32 (hround.value32_exact (z := lit0) (by decide) value32_lit0).2
  · rw [hsign rfl, Bool.and_not_self]

/-- A pattern of integral value is its own floor. -/
theorem ffloor_of_integer {x : F32} {z : ℤ} (h : value32 x = z) : ffloor x = x := by
  have hunits : (binary32.units (unpack32 x).mag : ℚ) = (z.natAbs * 2 ^ 149 : ℕ) := by
    rw [value32_eq] at h
    have habs := binary32.abs_signedValue (unpack32 x)
    rw [h, eq_div_iff (by positivity)] at habs
    rw [← habs, Nat.cast_mul, Nat.cast_natAbs, Int.cast_abs, Nat.cast_pow, Nat.cast_ofNat]
    rfl
  have hintegral : isIntegral32 x = true := by
    rw [isIntegral32_iff, Nat.cast_injective hunits]
    exact Nat.mul_mod_left _ _
  rw [ffloor, hintegral, Bool.or_true, if_pos rfl]

/-- Addition commutes: equal signs add, opposite ones take the smaller magnitude from the larger. -/
theorem FloatFormat.addSM_comm (f : FloatFormat) (x y : SignMag) : f.addSM x y = f.addSM y x := by
  obtain ⟨xneg, xmag⟩ := x
  obtain ⟨yneg, ymag⟩ := y
  simp only [FloatFormat.addSM]
  rcases eq_or_ne xneg yneg with same | opposite
  · grind
  · rcases lt_trichotomy (f.units xmag) (f.units ymag) with less | equal | greater <;> grind

/-- A zero plus a value that is no NaN and no zero. -/
theorem zero_fadd {c : Cfg} (hc : c.ftz = false) {a z : F32} (ha : isNaN32 a = false)
    (hne : isZero32 a = false) (hz : isZero32 z = true) : fadd c z a = a := by
  rw [fadd, binary32.addSM_comm, binary32_regular.addSM_zero_right ((isNaN32_eq_false_iff a).mp ha)
    ((isZero32_eq_false_iff a).mp hne) ((isZero32_iff z).mp hz), result32_some hc, pack32_unpack32]

/-! ## Bounded results, with FTZ either way -/

/-- A finite rounding does not rise above a value that is not below the exact result. -/
theorem Rounds32.value32_le {q : ℚ} {r z : F32} (h : Rounds32 q r) (hr : Machine.isFinite32 r = true)
    (hz : Machine.isFinite32 z = true) (hle : q ≤ value32 z) : value32 r ≤ value32 z := by
  rcases h with ⟨-, -, nearest, -⟩ | ⟨hinf, -⟩
  · by_contra! hlt
    have := nearest z hz
    rw [abs_of_nonpos (by linarith), abs_of_nonpos (by linarith)] at this
    linarith
  · rw [isFinite32_iff] at hr
    rw [isInf32_iff] at hinf
    omega

/-- FTZ cannot take a finite result above a value that is neither below the exact result nor below zero. -/
theorem Rounds32Ftz.value32_le {q : ℚ} {r z w : F32} (h : Rounds32Ftz q r)
    (hw : Machine.isFinite32 w = true) (hq : |q| ≤ |value32 w|) (hz : Machine.isFinite32 z = true)
    (hle : q ≤ value32 z) (hpos : 0 ≤ value32 z) : value32 r ≤ value32 z := by
  obtain ⟨r', hround, rfl | rfl⟩ := h
  · exact hround.value32_le (hround.isFinite32 hw hq) hz hle
  · rcases value32_flushed r' with hkeep | hzero
    · rw [hkeep]
      exact hround.value32_le (hround.isFinite32 hw hq) hz hle
    · rwa [hzero]

/-- A rounding is no NaN, an overflow included. -/
theorem Rounds32Ftz.isNaN32_eq_false {q : ℚ} {r : F32} (h : Rounds32Ftz q r) : isNaN32 r = false := by
  obtain ⟨r', hround, hr⟩ := h
  rcases hround with ⟨hfinite, -⟩ | ⟨hinf, -⟩
  · rcases hr with rfl | rfl
    · exact isNaN32_of_isFinite32 hfinite
    · exact isNaN32_of_isFinite32 (isFinite32_flushed hfinite)
  · have hkept : flushed r' = r' :=
      flushed_of_not_subnormal (.inr ((isInf32_iff r').mp hinf ▸ by decide))
    rw [hkept, or_self] at hr
    exact hr ▸ isNaN32_of_isInf32 hinf

theorem fdiv_rounds (c : Cfg) {a b : F32} (ha : isFinite32 a = true) (hb : isFinite32 b = true)
    (hne : isZero32 b = false) : Rounds32Ftz (value32 a / value32 b) (fdiv c a b) := by
  have hround := (fdiv_finite (c := keepingSubnormals c) rfl ha hb hne).1
  cases hftz : c.ftz
  · exact ⟨_, (fdiv_finite hftz ha hb hne).1, .inl rfl⟩
  · exact ⟨_, hround, .inr (result32_eq_flushed hftz _ _ _ (binary32.divSM_mag_le _ _))⟩

theorem flt_eq_false_iff {a b : F32} (ha : isNaN32 a = false) (hb : isNaN32 b = false) :
    flt a b = false ↔ fle b a = true := by
  rw [← Bool.not_eq_true, flt_eq_true_iff ha hb, fle_eq_true_iff hb ha, not_lt]

/-- Clamping a value that is no NaN between finite bounds gives a finite value between them. -/
theorem fclamp_between_finite {v lo hi : F32} (hv : isNaN32 v = false) (hlo : isFinite32 lo = true)
    (hhi : isFinite32 hi = true) (horder : value32 lo ≤ value32 hi) :
    isFinite32 (fclamp v lo hi) = true ∧ value32 lo ≤ value32 (fclamp v lo hi) ∧
      value32 (fclamp v lo hi) ≤ value32 hi := by
  rcases ((isNaN32_eq_false_iff v).mp hv).lt_or_eq with hfinite | hinf
  · obtain ⟨hclamped, hvalue⟩ := fclamp_finite hlo hhi horder ((isFinite32_iff v).mpr hfinite)
    rw [hvalue]
    exact ⟨hclamped, le_max_left _ _, max_le horder (min_le_right _ _)⟩
  · rw [fclamp_inf hlo hhi ((isInf32_iff v).mpr hinf)]
    cases v.msb
    · exact ⟨hhi, horder, le_rfl⟩
    · exact ⟨hlo, le_rfl, horder⟩

/-- A finite value of magnitude at most `n`. -/
structure AtMost (n : ℕ) (x : F32) : Prop where
  finite : isFinite32 x = true
  bound : |value32 x| ≤ n

theorem atMost_of_withinOne {x : F32} (h : withinOne x = true) : AtMost 1 x :=
  ⟨isFinite32_of_withinOne h, by simpa using abs_value32_le_one h⟩

/-- A rounding keeps a bound that binary32 holds. -/
theorem Rounds32Ftz.atMost {q : ℚ} {r : F32} {n : ℕ} (h : Rounds32Ftz q r) (hq : |q| ≤ n)
    (hn : n < 2 ^ 24) : AtMost n r := by
  obtain ⟨hfinite, hvalue⟩ := intToF32_exact (n := n) (by rw [Nat.abs_cast]; exact_mod_cast hn)
  obtain ⟨hfinite', hvalue'⟩ := intToF32_exact (n := -n) (by
    rw [abs_neg, Nat.abs_cast]; exact_mod_cast hn)
  push_cast at hvalue hvalue'
  obtain ⟨hlow, hhigh⟩ := abs_le.mp hq
  have hnonneg : (0 : ℚ) ≤ n := n.cast_nonneg
  have hbound : |q| ≤ |value32 (intToF32 n)| := by rwa [hvalue, Nat.abs_cast]
  refine ⟨h.isFinite32 hfinite hbound, abs_le.mpr ⟨?_, ?_⟩⟩
  · rw [← hvalue']
    exact h.le_value32 hfinite hbound hfinite' (by linarith) (by linarith)
  · rw [← hvalue]
    exact h.value32_le hfinite hbound hfinite (by linarith) (by linarith)

section
variable (c : Cfg) {a b : F32} {m n : ℕ} (ha : AtMost m a) (hb : AtMost n b)
include ha hb

theorem AtMost.fadd (hn : m + n < 2 ^ 24) : AtMost (m + n) (fadd c a b) :=
  (fadd_rounds c ha.finite hb.finite).atMost (by
    push_cast
    exact (abs_add_le _ _).trans (add_le_add ha.bound hb.bound)) hn

theorem AtMost.fsub (hn : m + n < 2 ^ 24) : AtMost (m + n) (fsub c a b) :=
  (fsub_rounds c ha.finite hb.finite).atMost (by
    push_cast
    exact (abs_sub _ _).trans (add_le_add ha.bound hb.bound)) hn

theorem AtMost.fmul (hn : m * n < 2 ^ 24) : AtMost (m * n) (fmul c a b) :=
  (fmul_rounds c ha.finite hb.finite).atMost (by
    push_cast
    rw [abs_mul]
    exact mul_le_mul ha.bound hb.bound (abs_nonneg _) m.cast_nonneg) hn

end

/-! ## What PREPARE installs for the delay line -/

theorem capacityOf_eq (fs : F64) : capacityOf fs =
    (3 * binary64.units (unpack64 fs).mag + (10 * 2 ^ 1074 - 1)) / (10 * 2 ^ 1074) + 4 := rfl

theorem rateLegal_iff {c : Cfg} {fs : F64} : rateLegal c fs = true ↔
    isFinite64 fs = true ∧ dlt dbl16000 fs = true ∧ capacityOf fs ≤ c.delayRamWords := by
  rw [rateLegal, Bool.and_eq_true, Bool.and_eq_true, decide_eq_true_iff, and_assoc]

theorem value64_dbl16000 : value64 dbl16000 = 16000 := by decide +kernel

/-- The capacity for a legal rate: above 16000 the ceiling is at least 1 (R251, R252). -/
theorem five_le_capacityOf {c : Cfg} {fs : F64} (h : rateLegal c fs = true) : 5 ≤ capacityOf fs := by
  obtain ⟨hfinite, habove, -⟩ := rateLegal_iff.mp h
  rw [dlt_eq_true_iff (by decide) hfinite, value64_dbl16000] at habove
  have hmag : (unpack64 fs).mag ≠ 0 := by
    rw [ne_eq, ← value64_eq_zero_iff]
    linarith
  have hunits : binary64.units (unpack64 fs).mag ≠ 0 := by
    rwa [ne_eq, binary64_regular.units_eq_zero]
  have hone : 0 < 2 ^ 1074 := by positivity
  rw [capacityOf_eq]
  generalize binary64.units (unpack64 fs).mag = u at hunits
  generalize 2 ^ 1074 = one at hone
  have hceil : 1 ≤ (3 * u + (10 * one - 1)) / (10 * one) := by
    rw [Nat.le_div_iff_mul_le (by omega)]
    omega
  omega

/-- A rate whose ring has fewer than `2 ^ 24` elements is finite in binary32. -/
theorem isFinite32_to32_of_capacityOf (c : Cfg) {fs : F64} (hfs : isFinite64 fs = true)
    (hcap : capacityOf fs < 2 ^ 24) : isFinite32 (to32 c fs) = true := by
  have hunits : binary64.units (unpack64 fs).mag ≤ 2 ^ 26 * 2 ^ 1074 := by
    have hone : 0 < 2 ^ 1074 := by positivity
    rw [capacityOf_eq] at hcap
    generalize binary64.units (unpack64 fs).mag = u at hcap ⊢
    generalize 2 ^ 1074 = one at hone hcap ⊢
    have hceil : (3 * u + (10 * one - 1)) / (10 * one) < 2 ^ 24 := by omega
    rw [Nat.div_lt_iff_lt_mul (by omega)] at hceil
    omega
  have hround : binary32.roundUnits (binary64.units (unpack64 fs).mag) (2 ^ 925) <
      binary32.infMag := by
    refine lt_of_le_of_lt (binary32.roundUnits_mono binary32_hidden (by positivity) one_pos
      (n' := 2 ^ 26 * 2 ^ 149) ?_) (by decide +kernel)
    have hscale : 2 ^ 149 * 2 ^ 925 = 2 ^ 1074 := by rw [← pow_add, show 149 + 925 = 1074 from rfl]
    rwa [Nat.mul_one, mul_assoc, hscale]
  have hto : to32 c fs = pack32 ⟨fs.msb, flushMag c
      (binary32.roundUnits (binary64.units (unpack64 fs).mag) (2 ^ 925))⟩ := by
    rw [to32, isNaN64_of_isFinite64 hfs, hfs]
    rfl
  generalize binary32.roundUnits (binary64.units (unpack64 fs).mag) (2 ^ 925) = m at hround hto
  rw [hto]
  exact isFinite32_pack32 (v := ⟨fs.msb, flushMag c m⟩) (lt_of_le_of_lt (flushMag_le c m) hround)

/-- A prepared ring is longer than the margin of R130. -/
theorem EngineInstalled.five_le_cap {s : State} (h : EngineInstalled s) (hprep : s.eng.prep = true) :
    5 ≤ s.eng.cap := by
  rcases h with ⟨hpower, -⟩ | ⟨-, hrate, -, heng⟩
  · rw [hprep] at hpower; cases hpower
  · rw [heng]
    exact five_le_capacityOf hrate

theorem EngineInstalled.isFinite32_fs32 {s : State} (h : EngineInstalled s) (hprep : s.eng.prep = true)
    (hcap : s.eng.cap < 2 ^ 24) : isFinite32 s.eng.fs32 = true := by
  rcases h with ⟨hpower, -⟩ | ⟨-, hrate, -, heng⟩
  · rw [hprep] at hpower; cases hpower
  · rw [heng] at hcap ⊢
    exact isFinite32_to32_of_capacityOf s.cfg (rateLegal_iff.mp hrate).1 hcap

/-- What R130 to R132 need of a core and a write index: a finite rate, a ring longer than the margin, and CAP and the index among the integers R9 states. -/
structure PositionStated (g : Engine) (w : Nat) : Prop where
  rate : isFinite32 g.fs32 = true
  margin : 5 ≤ g.cap
  stated : g.cap < 2 ^ 24
  index : w < g.cap

/-- CAP is an `f32` value. -/
theorem PositionStated.intToF32_cap {g : Engine} {w : Nat} (h : PositionStated g w) :
    isFinite32 (intToF32 (g.cap : Int)) = true ∧ value32 (intToF32 (g.cap : Int)) = g.cap := by
  have hcap := h.stated
  simpa using intToF32_exact (n := (g.cap : Int)) (by rw [abs_lt]; omega)

/-- The write index is an `f32` value. -/
theorem PositionStated.intToF32_index {g : Engine} {w : Nat} (h : PositionStated g w) :
    isFinite32 (intToF32 (w : Int)) = true ∧ value32 (intToF32 (w : Int)) = w := by
  have hcap := h.stated
  have hw := h.index
  simpa using intToF32_exact (n := (w : Int)) (by rw [abs_lt]; omega)

theorem positionStated {s : State} (hinstalled : EngineInstalled s) (hrings : RingsSound s)
    (hprep : s.eng.prep = true) (hcap : s.eng.cap < 2 ^ 24) (ch : Channel) (st : Stage) :
    PositionStated s.eng (s.inst ch st).dly.w := by
  have hmargin := hinstalled.five_le_cap hprep
  obtain ⟨-, -, -, hw⟩ := hrings ch st
  exact ⟨hinstalled.isFinite32_fs32 hprep hcap, hmargin, hcap, hw.resolve_right fun h => by omega⟩

/-! ## The delay in samples -/

/-- A parameter register that holds no NaN is read as a finite value. -/
theorem isFinite32_paramRead {s : State} {st : Stage} {p : Param} (h : isNaN32 (s.paramReg st p) = false) :
    isFinite32 (s.paramRead st p) = true := by
  have hlo : isFinite32 (paramLo p) = true := by cases p <;> decide
  have hhi : isFinite32 (paramHi p) = true := by cases p <;> decide
  have horder : value32 (paramLo p) ≤ value32 (paramHi p) := by
    rw [value32_le_iff]
    cases p <;> decide
  exact (fclamp_between_finite h hlo hhi horder).1

theorem value32_lit1 : value32 lit1 = 1 := by decide +kernel
theorem value32_lit1000 : value32 lit1000 = 1000 := by decide +kernel

/-- The delay in samples of a prepared core is finite, at least 1 and at most CAP - 4 (R130). -/
theorem PositionStated.delaySamples_between {g : Engine} {w : Nat} (h : PositionStated g w) (c : Cfg)
    {delayMs : F32} (hms : isFinite32 delayMs = true) :
    isFinite32 (delaySamples c g delayMs) = true ∧ 1 ≤ value32 (delaySamples c g delayMs) ∧
      value32 (delaySamples c g delayMs) ≤ (g.cap : ℚ) - 4 := by
  obtain ⟨hfs, hlong, hcap, -⟩ := h
  obtain ⟨hhi, hhival⟩ := intToF32_exact (n := (g.cap : Int) - 4) (by rw [abs_lt]; omega)
  push_cast at hhival
  have hlong' : (5 : ℚ) ≤ g.cap := by exact_mod_cast hlong
  have hseconds : isFinite32 (fdiv c delayMs lit1000) = true := by
    refine (fdiv_rounds c hms (by decide) (by decide)).isFinite32 hms ?_
    rw [abs_div, value32_lit1000]
    exact div_le_self (abs_nonneg _) (by norm_num)
  have hnan := (fmul_rounds c hseconds hfs).isNaN32_eq_false
  have hbetween := fclamp_between_finite hnan (lo := lit1) (by decide) hhi
    (by rw [value32_lit1, hhival]; linarith)
  rwa [value32_lit1, hhival] at hbetween

/-! ## The read position -/

/-- The wrap loop stops at a position that is not negative (R131). -/
theorem wrapPosition_of_nonneg (c : Cfg) (cap : F32) (fuel : Nat) {r : F32} (h : flt r lit0 = false) :
    wrapPosition c cap fuel r = r := by
  cases fuel <;> simp [wrapPosition, h]

/-- The read position before the wrap loop. -/
def unwrappedPosition (c : Cfg) (g : Engine) (w : Nat) (delayMs : F32) : F32 :=
  fsub c (intToF32 (w : Int)) (delaySamples c g delayMs)

section
variable {g : Engine} {w : Nat} (h : PositionStated g w) (c : Cfg) {delayMs : F32}
  (hms : isFinite32 delayMs = true)
include h hms

/-- Write index less delay lies between 4 - CAP and CAP, which both are `f32` values. -/
theorem PositionStated.unwrappedPosition_between : isFinite32 (unwrappedPosition c g w delayMs) = true ∧
    4 - (g.cap : ℚ) ≤ value32 (unwrappedPosition c g w delayMs) ∧
    value32 (unwrappedPosition c g w delayMs) ≤ g.cap := by
  obtain ⟨hdelay, hdelay1, hdelay4⟩ := h.delaySamples_between c hms
  obtain ⟨hwfin, hwval⟩ := h.intToF32_index
  obtain ⟨hcapfin, hcapval⟩ := h.intToF32_cap
  obtain ⟨-, hlong, hcap, hw⟩ := h
  obtain ⟨hlowfin, hlowval⟩ := intToF32_exact (n := 4 - (g.cap : Int)) (by rw [abs_lt]; omega)
  push_cast at hlowval
  have hround := fsub_rounds c hwfin hdelay
  rw [hwval] at hround
  have hw0 : (0 : ℚ) ≤ w := w.cast_nonneg
  have hw' : (w : ℚ) < g.cap := by exact_mod_cast hw
  have hlong' : (5 : ℚ) ≤ g.cap := by exact_mod_cast hlong
  have hbound : |(w : ℚ) - value32 (delaySamples c g delayMs)| ≤ |value32 (intToF32 (g.cap : Int))| := by
    rw [hcapval, Nat.abs_cast, abs_le]
    constructor <;> linarith
  refine ⟨hround.isFinite32 hcapfin hbound, ?_, ?_⟩
  · rw [← hlowval]
    apply hround.le_value32 hcapfin hbound hlowfin <;> rw [hlowval] <;> linarith
  · rw [← hcapval]
    apply hround.value32_le hcapfin hbound hcapfin <;> rw [hcapval] <;> linarith

/-- A negative position is brought into the ring by adding CAP once (R132). -/
theorem PositionStated.wrapped_between (hneg : flt (unwrappedPosition c g w delayMs) lit0 = true) :
    fle lit0 (fadd c (unwrappedPosition c g w delayMs) (intToF32 (g.cap : Int))) = true ∧
    fle (fadd c (unwrappedPosition c g w delayMs) (intToF32 (g.cap : Int)))
      (intToF32 (g.cap : Int)) = true := by
  obtain ⟨hfin, hlow, -⟩ := h.unwrappedPosition_between c hms
  obtain ⟨hcapfin, hcapval⟩ := h.intToF32_cap
  rw [flt_iff_value32 hfin (by decide), value32_lit0] at hneg
  have hround := fadd_rounds c hfin hcapfin
  rw [hcapval] at hround
  have hbound : |value32 (unwrappedPosition c g w delayMs) + (g.cap : ℚ)| ≤
      |value32 (intToF32 (g.cap : Int))| := by
    rw [hcapval, Nat.abs_cast, abs_le]
    constructor <;> linarith
  refine ⟨hround.fle_lit0 (by linarith), ?_⟩
  rw [fle_iff_value32 (hround.isFinite32 hcapfin hbound) hcapfin]
  apply hround.value32_le hcapfin hbound hcapfin <;> rw [hcapval] <;> linarith

/-- The read position lies in [0, CAP], and the loop adds CAP at most once (R131, R132). -/
theorem PositionStated.readPosition_once :
    readPosition c g w delayMs = (if flt (unwrappedPosition c g w delayMs) lit0 = true
      then fadd c (unwrappedPosition c g w delayMs) (intToF32 (g.cap : Int))
      else unwrappedPosition c g w delayMs) ∧
    fle lit0 (readPosition c g w delayMs) = true ∧
    fle (readPosition c g w delayMs) (intToF32 (g.cap : Int)) = true := by
  obtain ⟨hfin, -, hhigh⟩ := h.unwrappedPosition_between c hms
  have hloop : readPosition c g w delayMs = wrapPosition c (intToF32 (g.cap : Int)) (g.cap + 1)
    (unwrappedPosition c g w delayMs) := rfl
  obtain ⟨hcapfin, hcapval⟩ := h.intToF32_cap
  cases hneg : flt (unwrappedPosition c g w delayMs) lit0 with
  | false =>
    rw [hloop, wrapPosition_of_nonneg _ _ _ hneg, fle_iff_value32 hfin hcapfin, hcapval]
    exact ⟨rfl, (flt_eq_false_iff (isNaN32_of_isFinite32 hfin) (by decide)).mp hneg, hhigh⟩
  | true =>
    have hbetween := h.wrapped_between c hms hneg
    have hnan := (fadd_rounds c hfin hcapfin).isNaN32_eq_false
    have hstop := (flt_eq_false_iff hnan (by decide)).mpr hbetween.1
    rw [hloop, wrapPosition, if_pos hneg, wrapPosition_of_nonneg _ _ _ hstop]
    exact ⟨rfl, hbetween⟩

end

/-! ## The interpolated read -/

/-- The four taps of the interpolation are the ring elements at offsets -1 to 2 from the position's floor (R133, R134). -/
theorem ringRead_eq (c : Cfg) (ring : List (Nat × F32)) (cap : Nat) (r : F32) :
    ringRead c ring cap r = interpolate c (ringTap ring cap (intOfF32 (ffloor r) + -1))
      (ringTap ring cap (intOfF32 (ffloor r) + 0)) (ringTap ring cap (intOfF32 (ffloor r) + 1))
      (ringTap ring cap (intOfF32 (ffloor r) + 2)) (fsub c r (ffloor r)) := by
  rw [Int.add_zero]
  rfl

theorem feedbackTerm_eq (c : Cfg) (fb out : F32) : feedbackTerm c fb out =
    if c.fbOrder = .scaleAfter then fmul c fb (tanhF32 c out) else tanhF32 c (fmul c fb out) := by
  unfold feedbackTerm
  cases c.fbOrder <;> rfl

/-- What DELAY_SAMPLE reads from its line (R131). -/
def State.delayRead (s : State) (ch : Channel) (st : Stage) : F32 :=
  ringRead s.cfg (s.inst ch st).dly.ring s.eng.cap
    (readPosition s.cfg s.eng (s.inst ch st).dly.w (s.paramRead st .delayMs))

/-- What DELAY_SAMPLE writes to its line (R131, R135). -/
def State.delayWritten (s : State) (ch : Channel) (st : Stage) : F32 :=
  tanhF32 s.cfg (fadd s.cfg s.a0 (feedbackTerm s.cfg (feedbackOf s.cfg (s.paramRead st .feedbackPct))
    (s.delayRead ch st)))

/-- DELAY on a ring with elements (R131, R136). -/
theorem moduleOf_delaySample {s : State} (ch : Channel) (st : Stage) (hcap : s.eng.cap ≠ 0) :
    moduleOf s (.delaySample ch st) (s.inst ch st) = ({ s.inst ch st with
      dly := ⟨cellSet (s.inst ch st).dly.ring (s.inst ch st).dly.w (s.delayWritten ch st),
        ((s.inst ch st).dly.w + 1) % s.eng.cap⟩ }, s.delayRead ch st) := by
  simp only [moduleOf, delayInst, delay, if_neg hcap, State.delayWritten, State.delayRead]

theorem sampled_delaySample_result {s : State} (ch : Channel) (st : Stage) (hcap : s.eng.cap ≠ 0) :
    (s.sampled ch st (.delaySample ch st)).result = s.delayRead ch st := by
  rw [State.sampled, State.setResult_result, moduleOf_delaySample ch st hcap]

/-- DELAY_SAMPLE on a prepared core whose parameters are no NaN runs DELAY on its own line (R137). -/
theorem exec_delaySample {s : State} {st : Stage} (ch : Channel) (hprep : s.eng.prep = true)
    (hms : isNaN32 (s.paramReg st .delayMs) = false) (hfb : isNaN32 (s.paramReg st .feedbackPct) = false) :
    exec (.delaySample ch st) s = .next (s.sampled ch st (.delaySample ch st)) := by
  have hi : Instr.delaySample ch st ∈ instanceInstrs ch st := by simp [instanceInstrs]
  have hnone : faultOf (.delaySample ch st) s = none := by
    simp [faultOf, usedParams, State.holdsNaN, hms, hfb]
  rw [exec_instanceInstr_faultOf hi, hnone, hprep]
  rfl

/-- Settles O28: DELAY run on the line, its functions written out. -/
theorem delayResult : Obligations.DelayResult := by
  intro ch st s hinstalled hprep hms hfb c I cap delayMs fbPct fb dS r0 r t y c1 c2 c3 out fbs
  have hcap : s.eng.cap ≠ 0 := by
    have := hinstalled.five_le_cap hprep
    omega
  refine ⟨fun hrings hstated => ?position, ?next⟩
  case position =>
    exact (positionStated hinstalled hrings hprep hstated ch st).readPosition_once c (isFinite32_paramRead hms)
  case next =>
    have hout : s.delayRead ch st = out := ringRead_eq c I.dly.ring s.eng.cap r
    have hwritten : s.delayWritten ch st = tanhF32 c (fadd c s.a0 fbs) := by
      have hfbs : feedbackTerm c fb out = fbs := feedbackTerm_eq c fb out
      rw [← hfbs, State.delayWritten, hout]
      rfl
    rw [exec_delaySample ch hprep hms hfb, State.sampled, moduleOf_delaySample ch st hcap, hwritten, hout]

/-! ## A whole-sample delay -/

/-- At fraction +0.0 every power of the fraction is a zero, and the polynomial of R134 is left with its constant term. -/
theorem interpolate_lit0 {c : Cfg} (hc : c.ftz = false) {y0 y1 y2 y3 : F32} (h0 : withinOne y0 = true)
    (h1 : withinOne y1 = true) (h2 : withinOne y2 = true) (h3 : withinOne y3 = true) :
    (isZero32 y1 = false → interpolate c y0 y1 y2 y3 lit0 = y1) ∧
    (isZero32 y1 = true → isZero32 (interpolate c y0 y1 y2 y3 lit0) = true) := by
  have hy0 := atMost_of_withinOne h0
  have hy1 := atMost_of_withinOne h1
  have hy2 := atMost_of_withinOne h2
  have hy3 := atMost_of_withinOne h3
  have hhalf : AtMost 1 lit0p5 := ⟨by decide, by decide +kernel⟩
  have honehalf : AtMost 2 lit1p5 := ⟨by decide, by decide +kernel⟩
  have htwo : AtMost 2 lit2 := ⟨by decide, by decide +kernel⟩
  have htwohalf : AtMost 3 lit2p5 := ⟨by decide, by decide +kernel⟩
  have hzero : AtMost 0 lit0 := ⟨by decide, by decide +kernel⟩
  have hc1 := hhalf.fmul c (hy2.fsub c hy0 (by decide)) (by decide)
  have hc2 := ((hy0.fsub c (htwohalf.fmul c hy1 (by decide)) (by decide)).fadd c
    (htwo.fmul c hy2 (by decide)) (by decide)).fsub c (hhalf.fmul c hy3 (by decide)) (by decide)
  have hc3 := (hhalf.fmul c (hy3.fsub c hy0 (by decide)) (by decide)).fadd c
    (honehalf.fmul c (hy1.fsub c hy2 (by decide)) (by decide)) (by decide)
  have hcubic := (hc3.fmul c hzero (by decide)).fadd c hc2 (by decide)
  have hsum := (hcubic.fmul c hzero (by decide)).fadd c hc1 (by decide)
  have hterms := (fmul_zero c hsum.finite (b := lit0) (by decide)).1
  constructor
  · exact fun hne => zero_fadd hc (isNaN32_of_isFinite32 hy1.finite) hne hterms
  · exact fun hy => (fadd_zeros c hterms hy).1

/-- With FTZ false and a delay of `d` samples the read position is the integer `w - d`, or `w - d + CAP` when that is negative. -/
theorem PositionStated.readPosition_integral {g : Engine} {w d : Nat} (h : PositionStated g w) {c : Cfg}
    (hc : c.ftz = false) {delayMs : F32} (hms : isFinite32 delayMs = true)
    (hd : value32 (delaySamples c g delayMs) = d) :
    ∃ z : ℤ, isFinite32 (readPosition c g w delayMs) = true ∧ value32 (readPosition c g w delayMs) = z ∧
      (z = w - d ∨ z = w - d + g.cap) := by
  obtain ⟨hdelay, -, hdelay4⟩ := h.delaySamples_between c hms
  have hposition := (h.readPosition_once c hms).1
  obtain ⟨hwfin, hwval⟩ := h.intToF32_index
  obtain ⟨hcapfin, hcapval⟩ := h.intToF32_cap
  obtain ⟨-, hlong, hcap, hw⟩ := h
  have hdcap : d + 4 ≤ g.cap := by
    rw [hd] at hdelay4
    exact_mod_cast le_sub_iff_add_le.mp hdelay4
  have hround := (fsub_finite hc hwfin hdelay).1
  rw [hwval, hd, ← Int.cast_natCast w, ← Int.cast_natCast d, ← Int.cast_sub] at hround
  obtain ⟨hfin, hval⟩ := hround.integer_exact (by rw [abs_lt]; omega)
  rw [unwrappedPosition] at hposition
  split_ifs at hposition with hneg
  · rw [flt_iff_value32 hfin (by decide), hval, value32_lit0] at hneg
    have hneg' : (w : ℤ) - d < 0 := by exact_mod_cast hneg
    have hsum := (fadd_finite hc hfin hcapfin).1
    rw [hval, hcapval, ← Int.cast_natCast g.cap, ← Int.cast_add] at hsum
    obtain ⟨hsumfin, hsumval⟩ := hsum.integer_exact (by rw [abs_lt]; omega)
    rw [hposition]
    exact ⟨_, hsumfin, hsumval, .inr rfl⟩
  · rw [hposition]
    exact ⟨_, hfin, hval, .inl rfl⟩

/-- At an integral position the read takes its taps around that integer, at fraction +0.0. -/
theorem ringRead_integral {c : Cfg} (hc : c.ftz = false) (ring : List (Nat × F32)) (cap : Nat) {r : F32}
    {z : ℤ} (hr : isFinite32 r = true) (hz : value32 r = z) :
    ringRead c ring cap r = interpolate c (ringTap ring cap (z + -1)) (ringTap ring cap (z + 0))
      (ringTap ring cap (z + 1)) (ringTap ring cap (z + 2)) lit0 := by
  rw [ringRead_eq, ffloor_of_integer hz, intOfF32_of_value hr hz, fsub_self hc hr]

/-- Adding CAP to a position does not change the element (R133). -/
theorem ringTap_add_cap (ring : List (Nat × F32)) (cap : Nat) (k : ℤ) :
    ringTap ring cap (k + cap) = ringTap ring cap k := by
  rw [ringTap, Int.add_emod_right, ringTap]

/-- Settles O55: the position is an integer, so the fraction is +0.0 and only the constant term is left. -/
theorem integralDelayIsExact : Obligations.IntegralDelayIsExact := by
  refine ⟨fun c y0 y1 y2 y3 hc h0 h1 h2 h3 => interpolate_lit0 hc h0 h1 h2 h3, ?line⟩
  intro ch st s d hinstalled hrings hprep hcap hc hms hfb hd line y hnan
  have hlong := hinstalled.five_le_cap hprep
  obtain ⟨-, -, hbound, -⟩ := hrings ch st
  obtain ⟨z, hfin, hval, hz⟩ := (positionStated hinstalled hrings hprep hcap ch st).readPosition_integral hc
    (isFinite32_paramRead hms) hd
  have htap : ∀ j, ringTap (s.inst ch st).dly.ring s.eng.cap (z + j) = y j := by
    intro j
    rcases hz with rfl | rfl
    · rfl
    · rw [add_right_comm, ringTap_add_cap]
      rfl
  have hread : s.delayRead ch st = interpolate s.cfg (y (-1)) (y 0) (y 1) (y 2) lit0 := by
    rw [State.delayRead, ringRead_integral hc _ _ hfin hval, htap, htap, htap, htap]
  have hwithin : ∀ j ∈ ([-1, 0, 1, 2] : List Int), withinOne (y j) = true := fun j hj =>
    (hbound _).resolve_left (by rw [Bool.not_eq_true]; exact hnan j hj)
  have hexact := interpolate_lit0 hc (hwithin (-1) (by simp)) (hwithin 0 (by simp)) (hwithin 1 (by simp))
    (hwithin 2 (by simp))
  refine ⟨_, exec_delaySample ch hprep hms hfb, ?_⟩
  rwa [sampled_delaySample_result ch st (by omega), hread]

end Sys2Proof.Machine
end

section
/-! The compander and the bounds of its gains and of the BBD output (R150 to R156, R175). -/

namespace Sys2Proof.Machine

/-! ## COMPRESS and EXPAND on a prepared core -/

/-- A command that names a CH and an ST runs its module function on a prepared core without a fault condition. -/
theorem exec_sampled {ch : Channel} {st : Stage} {i : Instr} (hi : i ∈ instanceInstrs ch st) {s : State}
    (hprep : s.eng.prep = true) (hnone : faultOf i s = none) : exec i s = .next (s.sampled ch st i) := by
  rw [exec_instanceInstr_faultOf hi, hnone, hprep]
  rfl

section
variable {ch : Channel} {st : Stage} {s : State} (hprep : s.eng.prep = true)
include hprep

/-- COMPRESS reads no parameter register, so it takes no fault (R154). -/
theorem exec_compress : exec (.compress ch st) s = .next (s.sampled ch st (.compress ch st)) :=
  exec_sampled (by simp [instanceInstrs]) hprep (by simp [faultOf, usedParams, State.holdsNaN])

/-- EXPAND reads no parameter register, so it takes no fault (R155). -/
theorem exec_expand : exec (.expand ch st) s = .next (s.sampled ch st (.expand ch st)) :=
  exec_sampled (by simp [instanceInstrs]) hprep (by simp [faultOf, usedParams, State.holdsNaN])

end

/-- Settles O27: COMPRESS_F and EXPAND_F run on the instance, their functions written out. -/
theorem companderResults : Obligations.CompanderResults := by
  intro ch st s hprep c I x env above gain eC gC eE gE
  have hcompress : moduleOf s (.compress ch st) I =
      ({ I with cmp := { I.cmp with envC := eC } }, fmul c x gC) := rfl
  have hexpand : moduleOf s (.expand ch st) I =
      ({ I with cmp := { I.cmp with envE := eE } }, fmul c x gE) := rfl
  refine ⟨?compress, ?expand⟩
  case compress => rw [exec_compress hprep, State.sampled, hcompress]
  case expand => rw [exec_expand hprep, State.sampled, hexpand]

/-! ## Below the threshold -/

theorem compressGain_below (c : Cfg) {e : F32} (h : flt e lit0p1 = true) : compressGain c e = lit1 := by
  rw [compressGain, if_pos h]

theorem expandGain_below (c : Cfg) {e : F32} (h : flt e lit0p1 = true) : expandGain c e = lit1 := by
  rw [expandGain, if_pos h]

section
variable {s : State} (ch : Channel) (st : Stage)

/-- The gain of COMPRESS is that of the envelope it leaves (R152). -/
theorem sampled_compress_result : (s.sampled ch st (.compress ch st)).result =
    fmul s.cfg s.a0 (compressGain s.cfg ((s.sampled ch st (.compress ch st)).inst ch st).cmp.envC) := by
  rw [State.inst_sampled, if_pos ⟨rfl, rfl⟩]
  rfl

/-- The gain of EXPAND is that of the envelope it leaves (R153). -/
theorem sampled_expand_result : (s.sampled ch st (.expand ch st)).result =
    fmul s.cfg s.a0 (expandGain s.cfg ((s.sampled ch st (.expand ch st)).inst ch st).cmp.envE) := by
  rw [State.inst_sampled, if_pos ⟨rfl, rfl⟩]
  rfl

variable (hc : s.cfg.ftz = false) (hnan : isNaN32 s.a0 = false)
include hc hnan

theorem sampled_compress_below
    (h : flt ((s.sampled ch st (.compress ch st)).inst ch st).cmp.envC lit0p1 = true) :
    (s.sampled ch st (.compress ch st)).result = s.a0 := by
  rw [sampled_compress_result, compressGain_below _ h, fmul_lit1 hc hnan]

theorem sampled_expand_below
    (h : flt ((s.sampled ch st (.expand ch st)).inst ch st).cmp.envE lit0p1 = true) :
    (s.sampled ch st (.expand ch st)).result = s.a0 := by
  rw [sampled_expand_result, expandGain_below _ h, fmul_lit1 hc hnan]

end

/-- Settles O53: both gains are 1 and each product with 1 is exact. -/
theorem companderExactBelowThreshold : Obligations.CompanderExactBelowThreshold := by
  intro ch st s t u hprep hc hnan hcompress hbelowC hexpand hbelowE
  rw [exec_compress hprep] at hcompress
  obtain rfl := Host.Outcome.next.inj hcompress
  have hresult := sampled_compress_below ch st hc hnan hbelowC
  rw [hresult, exec_expand (by simpa using hprep)] at hexpand
  obtain rfl := Host.Outcome.next.inj hexpand
  exact sampled_expand_below ch st (by simpa using hc) hnan hbelowE

/-! ## The gains -/

theorem fclamp_of_isNaN32 {v : F32} (h : isNaN32 v = true) (lo hi : F32) : fclamp v lo hi = v :=
  fclamp_inside (flt_of_isNaN32 (.inl h)) (flt_of_isNaN32 (.inr h))

/-- A NaN, or a value in [0.1, 3.0] (R151). -/
def GainBounded (g : F32) : Prop := isNaN32 g = true ∨ (fle lit0p1 g = true ∧ fle g lit3 = true)

theorem gainBounded_lit1 : GainBounded lit1 := .inr ⟨by decide, by decide⟩

/-- The clamp bounds the gain for whatever `pow10_f32` supplies, a NaN apart. -/
theorem gainBounded_gainOfDb (c : Cfg) (gDB : F32) : GainBounded (gainOfDb c gDB) := by
  unfold gainOfDb
  cases hnan : isNaN32 (pow10F32 c (fdiv c gDB lit20)) with
  | true =>
    rw [fclamp_of_isNaN32 hnan]
    exact .inl hnan
  | false => exact .inr (fclamp_between hnan (by decide) (by decide) (by decide))

theorem gainBounded_compressGain (c : Cfg) (e : F32) : GainBounded (compressGain c e) := by
  unfold compressGain
  split
  · exact gainBounded_lit1
  · exact gainBounded_gainOfDb c _

theorem gainBounded_expandGain (c : Cfg) (e : F32) : GainBounded (expandGain c e) := by
  unfold expandGain
  split
  · exact gainBounded_lit1
  · exact gainBounded_gainOfDb c _

/-! ## The saturation of the BBD output -/

/-- A rounding keeps every bound on the magnitude that is the magnitude of a finite value. -/
theorem Rounds32Ftz.abs_value32_le {q : ℚ} {r w : F32} (h : Rounds32Ftz q r)
    (hw : Machine.isFinite32 w = true) (hpos : 0 ≤ value32 w) (hq : |q| ≤ value32 w) :
    |value32 r| ≤ value32 w := by
  have hflip : Machine.isFinite32 (flipSign w) = true := by
    rw [isFinite32_iff, unpack32_flipSign]
    exact (isFinite32_iff w).mp hw
  have hbound : |q| ≤ |value32 w| := by rwa [abs_of_nonneg hpos]
  obtain ⟨hlow, hhigh⟩ := abs_le.mp hq
  refine abs_le.mpr ⟨?_, h.value32_le hw hbound hw hhigh hpos⟩
  rw [← value32_flipSign]
  apply h.le_value32 hw hbound hflip <;> rw [value32_flipSign] <;> linarith

/-- A value in [-1, 1] times a finite value that is not negative stays within the latter, with FTZ either way. -/
theorem fmul_withinOne (c : Cfg) {x w : F32} (hx : withinOne x = true) (hw : isFinite32 w = true)
    (hpos : 0 ≤ value32 w) : isFinite32 (fmul c x w) = true ∧ |value32 (fmul c x w)| ≤ value32 w := by
  have hround := fmul_rounds c (isFinite32_of_withinOne hx) hw
  have hproduct : |value32 x * value32 w| ≤ value32 w := by
    rw [abs_mul, abs_of_nonneg hpos]
    exact mul_le_of_le_one_left hpos (abs_value32_le_one hx)
  exact ⟨hround.isFinite32 hw (by rwa [abs_of_nonneg hpos]), hround.abs_value32_le hw hpos hproduct⟩

/-- `tanh_f32` with makeup gain is a NaN or within the makeup gain (R175). -/
theorem saturation_bounded (c : Cfg) (x : F32) :
    isNaN32 (fmul c (tanhF32 c x) lit1p1) = true ∨
    (isFinite32 (fmul c (tanhF32 c x) lit1p1) = true ∧
      |value32 (fmul c (tanhF32 c x) lit1p1)| ≤ value32 lit1p1) := by
  cases hnan : isNaN32 x with
  | true =>
    obtain ⟨-, -, hmul, -⟩ := isNaN32_of_nan_operand (c := c) (b := lit1p1)
      (.inl (tanhF32_of_isNaN32 c hnan))
    exact .inl hmul
  | false => exact .inr (fmul_withinOne c (withinOne_tanhF32 c hnan) (by decide) (by decide +kernel))

/-- Settles O54: the clamp bounds both gains, `tanh_f32` and the makeup gain the BBD output. -/
theorem gainAndSaturationBounds : Obligations.GainAndSaturationBounds :=
  ⟨fun c e => ⟨gainBounded_compressGain c e, gainBounded_expandGain c e⟩,
    fun c _ _ _ _ => saturation_bounded c _⟩

end Sys2Proof.Machine
end

section
/-! BBD_SAMPLE on a prepared core (R170 to R176). -/

namespace Sys2Proof.Machine

/-- BBD_SAMPLE on a prepared core whose delay parameter is no NaN runs BBD on its own instance (R176). -/
theorem exec_bbdSample {s : State} {st : Stage} (ch : Channel) (hprep : s.eng.prep = true)
    (hms : isNaN32 (s.paramReg st .delayMs) = false) :
    exec (.bbdSample ch st) s = .next (s.sampled ch st (.bbdSample ch st)) :=
  exec_sampled (by simp [instanceInstrs]) hprep (by simp [faultOf, usedParams, State.holdsNaN, hms])

/-- Settles O29: BBD run on the instance, its noise, its quantizer and its saturation written out. -/
theorem bbdResult : Obligations.BbdResult := by
  intro ch st s hprep hms c I x delayMs amp draw w p0 p1 p2 pink bl nz ql q qb
  have hamp : noiseAmplitude c delayMs = amp := rfl
  have hnoise : smoothedNoise c p0 p1 p2 I.bbd.prev w amp = nz := rfl
  have hblend : quantizedBlend c x = qb := rfl
  have hbbd : moduleOf s (.bbdSample ch st) I = ({ I with bbd := ⟨p0, p1, p2, nz⟩, noise := draw.1 },
      fmul c (tanhF32 c (fmul c lit0p9 (fadd c qb nz))) lit1p1) := by
    rw [← hblend, ← hnoise, ← hamp]
    rfl
  rw [exec_bbdSample ch hprep hms, State.sampled, hbbd]

end Sys2Proof.Machine
end

section
/-! FILTER_SAMPLE on a prepared core (R190 to R196). -/

namespace Sys2Proof.Machine

/-- FILTER_SAMPLE on a prepared core whose tone parameter is no NaN runs FILTER on its own instance (R196). -/
theorem exec_filterSample {s : State} {st : Stage} (ch : Channel) (hprep : s.eng.prep = true)
    (htone : isNaN32 (s.paramReg st .tonePct) = false) :
    exec (.filterSample ch st) s = .next (s.sampled ch st (.filterSample ch st)) :=
  exec_sampled (by simp [instanceInstrs]) hprep (by simp [faultOf, usedParams, State.holdsNaN, htone])

/-- Tuning writes the tone coefficients and `lastTone` alone, together or not at all (R192). -/
theorem retune_eq (c : Cfg) (g : Engine) (tone : F32) (f : FilterPair) : retune c g tone f = { f with
    tn := if toneChanged c tone f.lastTone then lowpass c g.fs (toneCutoff tone) else f.tn
    lastTone := if toneChanged c tone f.lastTone then some tone else f.lastTone } := by
  unfold retune
  cases toneChanged c tone f.lastTone <;> rfl

/-- Settles O30: FILTER run on the instance, its throttled tuning and both sections written out. -/
theorem filterResult : Obligations.FilterResult := by
  intro ch st s hprep htone c I f x lpf tone again tn out next1 next2 u
  have hagain : toneChanged c tone f.lastTone = again := rfl
  have htuned : retune c s.eng tone f =
      { f with tn := tn, lastTone := if again then some tone else f.lastTone } := by
    rw [retune_eq, hagain]
    rfl
  have hsections : runSections c x (retune c s.eng tone f) =
      ({ aa := f.aa, aaS1 := next1 f.aa f.aaS1 f.aaS2 x, aaS2 := next2 f.aa f.aaS1 x,
         tn := tn, tnS1 := next1 tn f.tnS1 f.tnS2 u, tnS2 := next2 tn f.tnS1 u,
         lastTone := if again then some tone else f.lastTone }, out tn f.tnS1 u) := by
    rw [htuned]
    rfl
  have hfilter : moduleOf s (.filterSample ch st) I =
      ({ I with flt := (runSections c x (retune c s.eng tone f)).1 },
        (runSections c x (retune c s.eng tone f)).2) := rfl
  rw [exec_filterSample ch hprep htone, State.sampled, hfilter, hsections]

end Sys2Proof.Machine
end

section
/-! MIX_SAMPLE on a prepared core (R210 to R214). -/

namespace Sys2Proof.Machine

/-- MIX_SAMPLE on a prepared core whose mix parameter is no NaN runs MIX on its own instance (R214). -/
theorem exec_mixSample {s : State} {st : Stage} (ch : Channel) (hprep : s.eng.prep = true)
    (hmix : isNaN32 (s.paramReg st .mixPct) = false) :
    exec (.mixSample ch st) s = .next (s.sampled ch st (.mixSample ch st)) :=
  exec_sampled (by simp [instanceInstrs]) hprep (by simp [faultOf, usedParams, State.holdsNaN, hmix])

theorem decayFlushed_iff (c : Cfg) (g : Engine) (m sm : F32) : decayFlushed c g m sm = true ↔
    c.ftz = true ∧ isZero32 m = true ∧
      isSubnormal32 (fmul { c with ftz := false } g.mixc (fsub c m sm)) = true := by
  rw [decayFlushed, Bool.and_eq_true, Bool.and_eq_true, and_assoc]

/-- The update by whether its product is flushed on the way to target 0 and the ratio then stops at +0.0 (R213, R214). -/
theorem smoothMix_eq (c : Cfg) (g : Engine) (m : F32) (x : MixState) :
    let sm := if x.primed then x.sm else m
    smoothMix c g m x = if decayFlushed c g m sm = true ∧ c.mixStop = .zero then lit0
      else fadd c sm (fmul c g.mixc (fsub c m sm)) := by
  intro sm
  split_ifs with hstops
  · obtain ⟨hflushed, hstop⟩ := hstops
    simp [smoothMix, sm, hflushed, hstop]
  · rcases smoothMix_cases c g m x with hupdate | ⟨-, hstop, hflushed, -⟩
    · exact hupdate
    · exact absurd ⟨hflushed, hstop⟩ hstops

/-- Settles O31: MIX run on the instance, its ratio by the two forms of the update, its crossfade written out. -/
theorem mixResult : Obligations.MixResult := by
  intro ch st s hprep hmix c I m sm0 flushes sm ang
  have hflushes : decayFlushed c s.eng m sm0 = true ↔ flushes := decayFlushed_iff c s.eng m sm0
  have hratio : smoothMix c s.eng m I.mix = sm :=
    (smoothMix_eq c s.eng m I.mix).trans (if_congr (and_congr_left' hflushes) rfl rfl)
  have hmixed : moduleOf s (.mixSample ch st) I = ({ I with mix := ⟨sm, true⟩ },
      fadd c (fmul c s.a0 (cosF32 c ang)) (fmul c s.a1 (sinF32 c ang))) := by
    rw [show ang = fmul c sm halfPiF from rfl, ← hratio]
    rfl
  rw [exec_mixSample ch hprep hmix, State.sampled, hmixed]

theorem isNaN32_left_of_fle {a b : F32} (h : fle a b = true) : isNaN32 a = false := by
  rw [← Bool.not_eq_true]
  intro hnan
  rw [fle_of_isNaN32 (.inl hnan)] at h
  cases h

/-- A clamp leaves what it has clamped as it is, when its bounds are in order. -/
theorem fclamp_fclamp {lo hi : F32} (hlo : flt lo lo = false) (hhi : flt hi hi = false)
    (horder : flt hi lo = false) (v : F32) : fclamp (fclamp v lo hi) lo hi = fclamp v lo hi := by
  cases hbelow : flt v lo
  · cases habove : flt hi v
    · rw [fclamp_inside hbelow habove, fclamp_inside hbelow habove]
    · rw [fclamp_above hbelow habove, fclamp_inside horder hhi]
  · rw [fclamp_below hbelow, fclamp_inside hlo horder]

/-- MIX clamps a parameter that `ParamRead` has clamped to the same range (R110, R210). -/
theorem mixTarget_paramRead (c : Cfg) (s : State) (st : Stage) :
    mixTarget c (s.paramRead st .mixPct) = mixTarget c (s.paramReg st .mixPct) :=
  congrArg (fdiv c · lit100) (fclamp_fclamp (by decide) (by decide) (by decide) _)

/-- Settles O56: the ratio is at +0.0, at which the crossfade gives the dry input. -/
theorem mixZeroIsDry : Obligations.MixZeroIsDry := by
  intro ch st s hprep hc hsin hcos hmixc hprimed hunprimed hmix hwet hdry
  have hnan := isNaN32_left_of_fle hmix
  have hratio : smoothMix s.cfg s.eng (mixTarget s.cfg (s.paramRead st .mixPct)) (s.inst ch st).mix = lit0 := by
    rw [mixTarget_paramRead]
    exact smoothMix_silent hc hmixc (isZero32_mixTarget s.cfg hmix) hprimed hunprimed
  have hmixed : moduleOf s (.mixSample ch st) (s.inst ch st) =
      ({ s.inst ch st with mix := ⟨lit0, true⟩ }, crossfade s.cfg lit0 s.a0 s.a1) := by
    rw [← hratio]
    rfl
  refine ⟨_, exec_mixSample ch hprep hnan, ?_⟩
  rw [State.sampled, hmixed]
  refine ⟨by simp, ?_⟩
  rw [State.setResult_result]
  rcases crossfade_silent hc hsin hcos hdry hwet with hsame | ⟨hzero, hdryZero⟩
  · exact ⟨fun _ => hsame, fun h => by rwa [hsame]⟩
  · exact ⟨fun h => absurd (hdryZero.symm.trans h) (by decide), fun _ => hzero⟩

end Sys2Proof.Machine
end

section
/-! The stage on a prepared core, ENGINE by the modes of CTRL, and what a block makes of them (R231 to R240). -/

namespace Sys2Proof.Machine

/-! ## STAGE_SAMPLE on a prepared core -/

/-- STAGE_SAMPLE on a prepared core none of whose stage parameters is a NaN runs STAGE on its own instance (R233). -/
theorem exec_stageSample {s : State} {st : Stage} (ch : Channel) (hprep : s.eng.prep = true)
    (hparams : ∀ p, isNaN32 (s.paramReg st p) = false) :
    exec (.stageSample ch st) s = .next (s.sampled ch st (.stageSample ch st)) :=
  exec_sampled (by simp [instanceInstrs]) hprep (by simp [faultOf, usedParams, State.holdsNaN, hparams])

/-- Settles O32: STAGE run on the instance, the chain of its units written out. -/
theorem stageResult : Obligations.StageResult := by
  intro ch st s hprep hparams c g P r1 r2 r3 r4 r5 r6
  have hstage : moduleOf s (.stageSample ch st) (s.inst ch st) = r6 := rfl
  rw [exec_stageSample ch hprep hparams, State.sampled, hstage]

/-! ## ENGINE by its modes -/

section
variable (c : Cfg) (g : Engine) (ch : Channel) {b : BlockRun} (x : F32) (pair : Inst × Inst)

/-- Bypassed, ENGINE is the soft clip (R236). -/
theorem engineSample_bypassed (hbyp : b.byp = true) :
    engineSample c g ch b x pair = (pair, softclip c x) :=
  if_pos hbyp

/-- In standard mode ENGINE is stage 1 and the soft clip (R235). -/
theorem engineSample_standard (hbyp : b.byp = false) (hcasc : b.casc = false) :
    engineSample c g ch b x pair =
      (((stage c g ch .one x b.p1 pair.1).1, pair.2), softclip c (stage c g ch .one x b.p1 pair.1).2) := by
  rw [engineSample, hbyp, hcasc]
  rfl

/-- In cascaded mode ENGINE is stage 1, stage 2 and one soft clip (R237). -/
theorem engineSample_cascaded (hbyp : b.byp = false) (hcasc : b.casc = true) :
    engineSample c g ch b x pair =
      (((stage c g ch .one x b.p1 pair.1).1,
        (stage c g ch .two (stage c g ch .one x b.p1 pair.1).2 b.p2 pair.2).1),
       softclip c (stage c g ch .two (stage c g ch .one x b.p1 pair.1).2 b.p2 pair.2).2) := by
  rw [engineSample, hbyp, hcasc]
  rfl

/-- Without cascade ENGINE leaves stage 2, bypassed or not (R238). -/
theorem engineSample_stageTwo_of_not_cascaded (hcasc : b.casc = false) :
    (engineSample c g ch b x pair).1.2 = pair.2 := by
  cases hbyp : b.byp with
  | true => rw [engineSample_bypassed c g ch x pair hbyp]
  | false => rw [engineSample_standard c g ch x pair hbyp hcasc]

end

/-- Settles O38: one case per mode. -/
theorem engineSampleCases : Obligations.EngineSampleCases := fun c g ch _ x I1 I2 =>
  ⟨engineSample_bypassed c g ch x (I1, I2), engineSample_standard c g ch x (I1, I2),
    engineSample_cascaded c g ch x (I1, I2)⟩

/-! ## A bypassed block -/

/-- Bypassed, a channel's samples are soft-clipped one by one and its instances stay (R236). -/
theorem runChannel_bypassed (c : Cfg) (g : Engine) (ch : Channel) {b : BlockRun} (hbyp : b.byp = true)
    (pair : Inst × Inst) : ∀ xs, runChannel c g ch b xs pair = (pair, xs.map (softclip c))
  | [] => rfl
  | x :: xs => by
    rw [runChannel, engineSample_bypassed c g ch x pair hbyp, runChannel_bypassed c g ch hbyp pair xs]
    rfl

/-- Bypassed, a block of legal length meets no fault condition: it uses no parameter (R240, R275). -/
theorem faultOf_processBlock_bypassed {s : State} (hprep : s.eng.prep = true) (hbyp : s.bypass = true)
    (hlen : s.blockLen.toNat ≤ s.eng.maxb.toNat) : faultOf .processBlock s = none := by
  have hlimit : ¬ s.blockLimit < s.blockLen.toNat := by
    rw [State.blockLimit, if_pos hprep]
    exact hlen.not_gt
  rw [faultOf_processBlock, if_neg hlimit, hbyp, Bool.not_true, Bool.false_and, Bool.and_false]
  rfl

/-- Settles O39: the block runs ENGINE over each channel's samples, and bypassed ENGINE is the soft clip. -/
theorem bypassedBlock : Obligations.BypassedBlock := by
  intro s hlegal hinstalled hwf hprep hbyp hlen
  obtain ⟨t, hexec, hchannels, hbytes, herr, -⟩ := blockRunsBothChannels s hlegal hinstalled hwf hprep
    (faultOf_processBlock_bypassed hprep hbyp hlen)
  simp only [runChannel_bypassed, hbyp] at hchannels
  refine ⟨t, hexec, fun ch st => ?_, fun ch i hi => ?_, hbytes, herr⟩
  · obtain ⟨hone, htwo, -⟩ := hchannels ch
    cases st with
    | one => exact hone
    | two => exact htwo
  · obtain ⟨-, -, hwords⟩ := hchannels ch
    rw [State.samples, State.samples, List.map_map] at hwords
    exact List.map_inj_left.mp hwords i (List.mem_range.mpr hi)

/-! ## A block in standard mode -/

section
variable {b : BlockRun} (hcasc : b.casc = false)
include hcasc

theorem inst_two_sampleStep (ch : Channel) (i : Nat) (s : State) (ch' : Channel) :
    (sampleStep b ch i s).inst ch' .two = s.inst ch' .two := by
  rw [inst_sampleStep]
  split_ifs with hch
  · rw [ofStage_two, sampleResult, engineSample_stageTwo_of_not_cascaded _ _ _ _ _ hcasc, hch]
  · rfl

theorem inst_two_channelLoop (ch : Channel) (k i : Nat) (s : State) (ch' : Channel) :
    (channelLoop b ch k i s).inst ch' .two = s.inst ch' .two :=
  channelLoop_field (·.inst ch' .two) b ch (fun j t => inst_two_sampleStep hcasc ch j t ch') k i s

end

/-- Settles O40: no sample of the block reaches stage 2, and a block that faults or is passed through changes no instance. -/
theorem standardModeFreezesStageTwo : Obligations.StandardModeFreezesStageTwo := by
  intro s t hexec hmode ch
  have hcasc : s.snapshot.casc = false := hmode
  cases CommandEffect.of_exec hexec with
  | fault _ => rw [inst_raiseFault]
  | blockPassed _ => rfl
  | blockRun _ _ _ =>
    rw [State.blockProcessed, inst_two_channelLoop hcasc, inst_two_channelLoop hcasc]
  | passed hi _ => simp [instanceInstrs] at hi
  | sampled hi _ _ => simp [instanceInstrs] at hi

end Sys2Proof.Machine
end

section
/-! PREPARE and RESET: every command completes, the capacity of a sample rate and the rates it makes legal, and RESET as a PREPARE with the installed operands (R250 to R257, R271). -/

namespace Sys2Proof.Machine

/-- Settles O21: the next state is the one its effect describes. -/
theorem everyCommandCompletes : Obligations.EveryCommandCompletes := fun i s =>
  (exec_effect i s).imp fun _ heffect => heffect.1

/-! ## The capacity of a sample rate -/

/-- Rounding up by adding the divisor less 1 before dividing. -/
theorem ceil_quotient (n : ℕ) {d : ℕ} (hd : 0 < d) : ⌈(n : ℚ) / d⌉ = ((n + (d - 1)) / d : ℕ) := by
  have hd' : (0 : ℚ) < d := by exact_mod_cast hd
  have hdiv := Nat.div_add_mod (n + (d - 1)) d
  have hmod := Nat.mod_lt (n + (d - 1)) hd
  generalize (n + (d - 1)) / d = q at hdiv ⊢
  have hbelow : d * q < n + d := by omega
  have habove : n ≤ d * q := by omega
  rw [Int.ceil_eq_iff, Int.cast_natCast, lt_div_iff₀ hd', div_le_iff₀ hd']
  have hbelow' : (d : ℚ) * q < n + d := by exact_mod_cast hbelow
  have habove' : (n : ℚ) ≤ d * q := by exact_mod_cast habove
  constructor <;> linarith

theorem value64_eq_quotient (x : F64) : value64 x =
    signFactor x.msb * ((binary64.units (unpack64 x).mag : ℚ) / (2 ^ 1074 : ℕ)) := by
  rw [value64_eq, FloatFormat.signedValue, Nat.cast_pow, Nat.cast_ofNat]
  rfl

theorem msb_eq_false_of_value64_pos {x : F64} (h : 0 < value64 x) : x.msb = false := by
  cases hsign : x.msb
  · rfl
  · have hquotient : 0 ≤ (binary64.units (unpack64 x).mag : ℚ) / (2 ^ 1074 : ℕ) := by positivity
    rw [value64_eq_quotient, hsign, signFactor_true] at h
    linarith

/-- CAPACITY of a non-negative rate is the exact ceiling of R252. -/
theorem capacityOf_eq_ceil {fs : F64} (hsign : fs.msb = false) :
    (capacityOf fs : ℤ) = ⌈3 * value64 fs / 10⌉ + 4 := by
  have hone : 0 < 2 ^ 1074 := by positivity
  rw [capacityOf_eq, value64_eq_quotient, hsign, signFactor_false, one_mul]
  generalize binary64.units (unpack64 fs).mag = u
  generalize 2 ^ 1074 = one at hone ⊢
  have hquotient : 3 * ((u : ℚ) / (one : ℕ)) / 10 = ((3 * u : ℕ) : ℚ) / (10 * one : ℕ) := by
    push_cast
    rw [mul_div_assoc', div_div, mul_comm (one : ℚ) 10]
  rw [hquotient, ceil_quotient _ (by omega), Nat.cast_add, Nat.cast_ofNat]

/-- The rates of R251, by value: one above 16000 is not negative, so its capacity is the ceiling. -/
theorem rateLegal_iff_value {c : Cfg} {fs : F64} : rateLegal c fs = true ↔
    isFinite64 fs = true ∧ 16000 < value64 fs ∧ ⌈3 * value64 fs / 10⌉ + 4 ≤ (c.delayRamWords : ℤ) := by
  rw [rateLegal_iff]
  refine and_congr_right fun hfinite => ?_
  rw [dlt_eq_true_iff (by decide) hfinite, value64_dbl16000]
  refine and_congr_right fun habove => ?_
  rw [← capacityOf_eq_ceil (msb_eq_false_of_value64_pos (by linarith)), Nat.cast_le]

/-- Settles O52: the ceiling, the legal rates by their value, and the examples of R252 computed. -/
theorem capacityAndLegalRates : Obligations.CapacityAndLegalRates :=
  ⟨fun _ _ hsign => capacityOf_eq_ceil hsign, fun _ _ => rateLegal_iff_value, by decide +kernel⟩

/-! ## CLEAR and RESET -/

theorem exec_reset (s : State) : exec .reset s = .next s.cleared := rfl

/-- CLEAR leaves nothing of the history for a second CLEAR to change (R253). -/
@[simp] theorem clearInst_clearInst (c : Cfg) (I : Inst) : clearInst c (clearInst c I) = clearInst c I := rfl

@[simp] theorem State.cleared_cleared (s : State) : s.cleared.cleared = s.cleared := by
  simp [State.cleared, State.mapInst]

/-- Settles O35: the state is `State.cleared` written out, and clearing it again changes nothing. -/
theorem resetResult : Obligations.ResetResult := by
  intro s fresh t
  have hcleared : t = s.cleared := rfl
  rw [hcleared, exec_reset, exec_reset, State.cleared_cleared]
  exact ⟨rfl, rfl⟩

/-! ## RESET as a PREPARE with the installed operands -/

/-- PREPARE clears an instance and installs the coefficients (R250); where they stand already, it only clears. -/
theorem prepareInst_of_aa {c : Cfg} {aa : Coeffs} {I : Inst} (haa : I.flt.aa = aa) :
    prepareInst c aa I = clearInst c I := by
  rw [prepareInst, ← haa]
  rfl

theorem State.mapInst_congr {s : State} {f g : Inst → Inst}
    (h : ∀ ch st, f (s.inst ch st) = g (s.inst ch st)) : s.mapInst f = s.mapInst g := by
  have h00 : f s.i00 = g s.i00 := h .left .one
  have h01 : f s.i01 = g s.i01 := h .left .two
  have h10 : f s.i10 = g s.i10 := h .right .one
  have h11 : f s.i11 = g s.i11 := h .right .two
  rw [State.mapInst, State.mapInst, h00, h01, h10, h11]

/-- The engine state of a prepared core is what PREPARE makes of operands that passed its checks (R254). -/
theorem EngineInstalled.of_prepared {s : State} (h : EngineInstalled s) (hprep : s.eng.prep = true) :
    rateLegal s.cfg s.eng.fs = true ∧ blockSizeLegal s.cfg s.eng.maxb = true ∧
      s.eng = preparedEngine s.cfg s.eng.fs s.eng.maxb := by
  rcases h with ⟨hpower, -⟩ | ⟨-, hinstalled⟩
  · rw [hprep] at hpower; cases hpower
  · exact hinstalled

section
variable {s : State} (hinstalled : EngineInstalled s) (hprep : s.eng.prep = true)
  (hrate : s.sampleRateOperand = s.eng.fs) (hsize : s.a2 = s.eng.maxb)
include hinstalled hprep hrate hsize

theorem faultOf_prepare_installed : faultOf .prepare s = none := by
  obtain ⟨hrateLegal, hsizeLegal, -⟩ := hinstalled.of_prepared hprep
  rw [faultOf_prepare, hrate, hsize, hrateLegal, hsizeLegal]
  rfl

/-- Both clear the history and ERR; the engine state and coefficients PREPARE installs stand already (R257). -/
theorem prepared_eq_cleared (htuned : FiltersTuned s) : s.prepared = s.cleared := by
  obtain ⟨-, -, heng⟩ := hinstalled.of_prepared hprep
  have hinst : s.mapInst (prepareInst s.cfg (lowpass s.cfg s.eng.fs dbl5000)) =
      s.mapInst (clearInst s.cfg) :=
    State.mapInst_congr fun ch st => prepareInst_of_aa (htuned hprep ch st).1
  rw [State.prepared, State.cleared, hrate, hsize, hinst, ← heng]
  rfl

end

/-- Settles O36: PREPARE meets no fault condition, and leaves the state RESET leaves. -/
theorem resetActsAsReprepare : Obligations.ResetActsAsReprepare := by
  intro s hinstalled htuned hprep hrate hsize
  refine ⟨s.cleared, ?_, exec_reset s⟩
  rw [exec_prepare_faultOf, faultOf_prepare_installed hinstalled hprep hrate hsize,
    ← prepared_eq_cleared hinstalled hprep hrate hsize htuned]
  rfl

end Sys2Proof.Machine
end
